-- ==== Sys2Proof/Word.lean ====
section
/-! DEFINITION. The word types of RTCSA: every register and packet word is 32 bits (00_scope.md R6, `XLEN`). -/

namespace Sys2Proof

/-- A register or packet word: `XLEN` = 32 bits (R6). -/
abbrev Word := BitVec 32

/-- A byte, used only where a word is serialised (20_memory.md R63). -/
abbrev Byte := BitVec 8

end Sys2Proof
end

