-- ==== Sys2Proof/Machine/Fields.lean ====
section
/-! DEFINITION. Bit fields, sign extension and byte order (00_scope.md R8, 20_memory.md R63). -/

namespace Sys2Proof

/-- `w[hi:lo]` read as an unsigned number (R8). -/
def bits (w : Word) (hi lo : Nat) : Nat := w.toNat / 2 ^ lo % 2 ^ (hi + 1 - lo)

/-- `w[i]` (R8). -/
def bit (w : Word) (i : Nat) : Bool := bits w i i == 1

/-- `s8`, `s16`, `s32`: an `n`-bit field value read as two's complement (R8). -/
def signed (n : Nat) (v : Nat) : Int := if v < 2 ^ (n - 1) then (v : Int) else (v : Int) - (2 : Int) ^ n

/-- The `n`-bit two's-complement field of a signed number, the inverse of `signed` on its range. -/
def field (n : Nat) (v : Int) : Nat := (v % (2 : Int) ^ n).toNat

/-- `sext_32` of a signed number, or the word of an unsigned one: its 32-bit two's-complement word (R8, R95). -/
def wordOfInt (v : Int) : Word := BitVec.ofNat 32 (field 32 v)

/-- The bytes of a word, little-endian: byte 0 is bits 7:0 (R63). -/
def wordBytes (w : Word) : List Byte :=
  [BitVec.ofNat 8 (bits w 7 0), BitVec.ofNat 8 (bits w 15 8),
   BitVec.ofNat 8 (bits w 23 16), BitVec.ofNat 8 (bits w 31 24)]

/-- The word of four bytes, the first the least significant (R63). -/
def wordOfBytes (b0 b1 b2 b3 : Byte) : Word :=
  BitVec.ofNat 32 (b0.toNat + b1.toNat * 2 ^ 8 + b2.toNat * 2 ^ 16 + b3.toNat * 2 ^ 24)

end Sys2Proof
end

