-- ==== Sys2Proof/Syntax.lean ====
section
/-! DEFINITION. The eleven commands, their opcodes, formats and packets (00_scope.md R2, 30_encoding.md R90 to R97). -/

namespace Sys2Proof

/-- The eleven commands with their operands (30_encoding.md R97, R103).
Operands are numbers: their packet ranges are `Instr.wf`, their meaning ranges are the argument errors of R98. -/
inductive Instr where
  | gettime
  | settime (year : Int) (month day : Nat) (wday : Int) (hour minute second : Nat)
  | getcal
  | setcal (ppb : Int)
  | config
  | tobcd (x : Nat)
  | frombcd (b : Byte)
  | ppb2pulses (ppb : Int)
  | pulses2ppb (pulses : Int)
  | calenc (pulses : Int)
  | caldec (flag : Bool) (magnitude : Nat)
deriving DecidableEq, Repr

/-- The opcode names of R97. -/
inductive Op where
  | gettime | settime | getcal | setcal | config
  | tobcd | frombcd | ppb2pulses | pulses2ppb | calenc | caldec
deriving DecidableEq, Repr

/-- The five transactions: the commands that touch the counter (R2), and the values of `OPL` (10_state.md R23). -/
inductive Transaction where
  | gettime | settime | getcal | setcal | config
deriving DecidableEq, Repr

/-- The five command formats of R94. -/
inductive Format where
  | n | b | h | w | t
deriving DecidableEq, Repr

/-- A command packet: a header word `CW0` and the words after it (R90).
R90's packets have one to three words; a longer list is malformed for every opcode (R98). -/
structure Packet where
  cw0 : Word
  more : List Word
deriving DecidableEq, Repr

/-- Why a packet is malformed (R98). `notWords` is of the byte view only: a packet is a whole number of
words (20_memory.md R65), so a requester cannot hand one over. -/
inductive Malformed where
  | reservedOpcode | wrongLength | mustBeZero | notWords
deriving DecidableEq, Repr

end Sys2Proof
end

