-- ==== Sys2Proof/Decode.lean ====
section
/-! DEFINITION. The decoder of command packets and its encoder (30_encoding.md R90 to R98, R103). -/

namespace Sys2Proof

/-- The opcode numbers of R97, `CW0[31:28]`. -/
def Op.code : Op → Nat
  | .gettime => 0x1
  | .settime => 0x2
  | .getcal => 0x3
  | .setcal => 0x4
  | .config => 0x5
  | .tobcd => 0x8
  | .frombcd => 0x9
  | .ppb2pulses => 0xA
  | .pulses2ppb => 0xB
  | .calenc => 0xC
  | .caldec => 0xD

/-- The opcode map read the other way; 0x0, 0x6, 0x7, 0xE and 0xF are reserved (R97, R98). -/
def Op.ofCode : Nat → Option Op
  | 0x1 => some .gettime
  | 0x2 => some .settime
  | 0x3 => some .getcal
  | 0x4 => some .setcal
  | 0x5 => some .config
  | 0x8 => some .tobcd
  | 0x9 => some .frombcd
  | 0xA => some .ppb2pulses
  | 0xB => some .pulses2ppb
  | 0xC => some .calenc
  | 0xD => some .caldec
  | _ => none

/-- The format of each opcode (R94, R97). -/
def Op.format : Op → Format
  | .gettime | .getcal | .config => .n
  | .tobcd | .frombcd => .b
  | .pulses2ppb | .calenc | .caldec => .h
  | .setcal | .ppb2pulses => .w
  | .settime => .t

/-- How many words a format has (R94). -/
def Format.words : Format → Nat
  | .n | .b | .h => 1
  | .w => 2
  | .t => 3

/-- R97's mask on `CW0`. -/
def Op.mask : Op → Word
  | .tobcd | .frombcd => 0xFFFFFF00#32
  | .pulses2ppb | .calenc => 0xFFFF0000#32
  | .caldec => 0xFFFF7E00#32
  | _ => 0xFFFFFFFF#32

/-- R97's match on `CW0`. -/
def Op.pattern (op : Op) : Word := BitVec.ofNat 32 (op.code * 2 ^ 28)

/-- The opcode of a command (R97). -/
def Instr.op : Instr → Op
  | .gettime => .gettime
  | .settime _ _ _ _ _ _ _ => .settime
  | .getcal => .getcal
  | .setcal _ => .setcal
  | .config => .config
  | .tobcd _ => .tobcd
  | .frombcd _ => .frombcd
  | .ppb2pulses _ => .ppb2pulses
  | .pulses2ppb _ => .pulses2ppb
  | .calenc _ => .calenc
  | .caldec _ _ => .caldec

/-- The opcode of a transaction. -/
def Transaction.op : Transaction → Op
  | .gettime => .gettime
  | .settime => .settime
  | .getcal => .getcal
  | .setcal => .setcal
  | .config => .config

/-- The number of words of a packet. -/
def Packet.length (p : Packet) : Nat := 1 + p.more.length

/-- `CW1` and `CW2`: the words after the header, 0 where the packet has none. -/
def Packet.cw1 (p : Packet) : Word := p.more.getD 0 0#32

@[inherit_doc Packet.cw1]
def Packet.cw2 (p : Packet) : Word := p.more.getD 1 0#32

/-- The must-be-zero bits of each format, and of `CALDEC` (R94, R96, R138). -/
def mustBeZeroHolds (op : Op) (p : Packet) : Bool :=
  match op with
  | .gettime | .getcal | .config | .setcal | .ppb2pulses => bits p.cw0 27 0 == 0
  | .tobcd | .frombcd => bits p.cw0 27 8 == 0
  | .pulses2ppb | .calenc => bits p.cw0 27 16 == 0
  | .caldec => bits p.cw0 27 16 == 0 && bits p.cw0 14 9 == 0
  | .settime =>
      bits p.cw0 27 0 == 0 && bits p.cw1 15 12 == 0 && bits p.cw1 7 5 == 0 &&
        bits p.cw2 23 21 == 0 && bits p.cw2 15 14 == 0 && bits p.cw2 7 6 == 0

/-- Operand assembly (R103). -/
def operands (op : Op) (p : Packet) : Instr :=
  match op with
  | .gettime => .gettime
  | .settime =>
      .settime (signed 16 (bits p.cw1 31 16)) (bits p.cw1 15 8) (bits p.cw1 7 0)
        (signed 8 (bits p.cw2 31 24)) (bits p.cw2 23 16) (bits p.cw2 15 8) (bits p.cw2 7 0)
  | .getcal => .getcal
  | .setcal => .setcal (signed 32 (bits p.cw1 31 0))
  | .config => .config
  | .tobcd => .tobcd (bits p.cw0 7 0)
  | .frombcd => .frombcd (BitVec.ofNat 8 (bits p.cw0 7 0))
  | .ppb2pulses => .ppb2pulses (signed 32 (bits p.cw1 31 0))
  | .pulses2ppb => .pulses2ppb (signed 16 (bits p.cw0 15 0))
  | .calenc => .calenc (signed 16 (bits p.cw0 15 0))
  | .caldec => .caldec (bit p.cw0 15) (bits p.cw0 8 0)

/-- The decoder: total on any packet, a malformed one refused by the reason of R98. -/
def decode (p : Packet) : Except Malformed Instr :=
  match Op.ofCode (bits p.cw0 31 28) with
  | none => .error .reservedOpcode
  | some op =>
    if p.length ≠ op.format.words then .error .wrongLength
    else if mustBeZeroHolds op p then .ok (operands op p)
    else .error .mustBeZero

/-- A packet of bytes in memory order: little-endian words (20_memory.md R63), the first word first (DEDUCED; log entry 16). -/
def wordsOfBytes : List Byte → Option (List Word)
  | [] => some []
  | b0 :: b1 :: b2 :: b3 :: rest => (wordsOfBytes rest).map (wordOfBytes b0 b1 b2 b3 :: ·)
  | _ => none

/-- The decoder on bytes: total, refusing by name what is not a whole number of words, at least one (R65, R90). -/
def decodeBytes (bs : List Byte) : Except Malformed Instr :=
  match wordsOfBytes bs with
  | some (cw0 :: more) => decode ⟨cw0, more⟩
  | _ => .error .notWords

/-- The header word `CW0` (R91). -/
def header (op : Op) (arg : Nat) : Word := BitVec.ofNat 32 (op.code * 2 ^ 28 + arg)

/-- `W_DATE` of a command or response (R96). -/
def packDate (year : Int) (month day : Nat) : Word :=
  BitVec.ofNat 32 (field 16 year * 2 ^ 16 + month * 2 ^ 8 + day)

/-- `W_TIME` of a command or response (R96). -/
def packTime (wday : Int) (hour minute second : Nat) : Word :=
  BitVec.ofNat 32 (field 8 wday * 2 ^ 24 + hour * 2 ^ 16 + minute * 2 ^ 8 + second)

/-- The encoder: the packet of a well-formed command (R91, R94, R96, R97, R103). -/
def encode : Instr → Packet
  | .gettime => ⟨header .gettime 0, []⟩
  | .settime year month day wday hour minute second =>
      ⟨header .settime 0, [packDate year month day, packTime wday hour minute second]⟩
  | .getcal => ⟨header .getcal 0, []⟩
  | .setcal ppb => ⟨header .setcal 0, [wordOfInt ppb]⟩
  | .config => ⟨header .config 0, []⟩
  | .tobcd x => ⟨header .tobcd x, []⟩
  | .frombcd b => ⟨header .frombcd b.toNat, []⟩
  | .ppb2pulses ppb => ⟨header .ppb2pulses 0, [wordOfInt ppb]⟩
  | .pulses2ppb pulses => ⟨header .pulses2ppb (field 16 pulses), []⟩
  | .calenc pulses => ⟨header .calenc (field 16 pulses), []⟩
  | .caldec flag magnitude => ⟨header .caldec (flag.toNat * 2 ^ 15 + magnitude), []⟩

/-- The words of a packet, in order. -/
def Packet.words (p : Packet) : List Word := p.cw0 :: p.more

/-- The words of a table word: bit 0 of `w` is bit 0 of the first word, later words count on from it.
As many words as `nbits` needs, and at least as many as the opcode's format has (R94), the bits above `nbits` 0. -/
def tablePacket (nbits w : Nat) : Packet :=
  let v := w % 2 ^ nbits
  let cw0 : Word := BitVec.ofNat 32 v
  let given := (nbits + 31) / 32
  let needed := match Op.ofCode (bits cw0 31 28) with
    | some op => max given op.format.words
    | none => given
  ⟨cw0, (List.range (needed - 1)).map fun k => BitVec.ofNat 32 (v / 2 ^ (32 * (k + 1)))⟩

/-- What the decoder reads from a table word, laid out as bytes in memory order (20_memory.md R63; log entry 16). -/
def decodeTableWord (nbits w : Nat) : Option Instr :=
  match decodeBytes ((tablePacket nbits w).words.flatMap wordBytes) with
  | .ok i => some i
  | .error _ => none

end Sys2Proof
end

