-- ==== Sys2Proof/Config.lean ====
section
/-! DEFINITION. What an implementation fixes (00_scope.md R6), the events that move the machine (R11), and the free values:
an unspecified `nsec` (43_time_transactions.md R177) and what happens after a schedule's end. -/

namespace Sys2Proof

/-- The parameters R6 calls *argument*. None changes while the block runs.
A poll budget is a quotient of two of them (`initPollBudget`, `calPollBudget`). -/
structure Config where
  /-- `NREQ`: requester ports, at least 1. -/
  nreq : Nat
  /-- `EPOCH_YEAR`: the calendar year that hardware year 0 stands for. -/
  epochYear : Int
  /-- `PREDIV_S`: target synchronous prescaler, 0 to 32767. -/
  predivS : Nat
  /-- `PREDIV_A`: target asynchronous prescaler, 0 to 127. -/
  predivA : Nat
  /-- `HAS_SMOOTH_CAL`: the variant supports smooth calibration. -/
  hasSmoothCal : Bool
  /-- `INIT_TIMEOUT_US`. -/
  initTimeoutUs : Nat
  /-- `INIT_POLL_INTERVAL_US`, at least 1. -/
  initPollIntervalUs : Nat
  /-- `CAL_TIMEOUT_US`. -/
  calTimeoutUs : Nat
  /-- `READ_RETRY_CAP`: none is the unbounded loop. -/
  readRetryCap : Option Nat
  /-- `RTC_BASE`: read by no rule (20_memory.md R61). -/
  rtcBase : Option Nat
deriving DecidableEq, Repr

/-- The defaults of R6: the low-speed-external profile of R7, two requesters. -/
def Config.default : Config where
  nreq := 2
  epochYear := 2000
  predivS := 255
  predivA := 127
  hasSmoothCal := true
  initTimeoutUs := 1000000
  initPollIntervalUs := 1000
  calTimeoutUs := 100000
  readRetryCap := none
  rtcBase := none

/-- The low-speed-internal profile of R7: 128 * 250 = 32000. -/
def Config.lowSpeedInternal : Config := { Config.default with predivS := 249 }

/-- The ranges of 92_eei_decisions.md section 2. -/
def Config.wf (c : Config) : Bool :=
  decide (1 ≤ c.nreq ∧ c.predivS ≤ 32767 ∧ c.predivA ≤ 127 ∧ 1 ≤ c.initPollIntervalUs)

/-- `INIT_POLL_BUDGET`: init-mode polls that may fail before the last one (R6, 42_init_mode.md R159).
DESIGN CHOICE: where the interval does not divide the timeout, the quotient is rounded down (log entry 28). -/
def Config.initPollBudget (c : Config) : Nat := c.initTimeoutUs / c.initPollIntervalUs

/-- `CAL_POLL_BUDGET`: the same for `SETCAL` (R6). DESIGN CHOICE: rounded down likewise (log entry 28). -/
def Config.calPollBudget (c : Config) : Nat := c.calTimeoutUs / c.initPollIntervalUs

/-- A prescaler profile is consistent with an oscillator frequency in hertz (R7). No rule of the block reads it. -/
def Config.profileConsistent (c : Config) (hertz : Nat) : Bool :=
  (c.predivA + 1) * (c.predivS + 1) == hertz

/-- The calendar year a year offset stands for (30_encoding.md R96, 92 D30). No rule of the block reads it. -/
def Config.calendarYear (c : Config) (year : Int) : Int := c.epochYear + year

/-- `TARGET_FMT` = 0, the 24-hour format (R6). -/
def targetFmt : Bool := false

/-- `CAL_PLUS`: pulses added by the insert-pulse flag (R6). -/
def calPlus : Int := 512

/-- `CAL_MAG_MAX`: largest subtractable magnitude (R6). -/
def calMagMax : Int := 511

/-- `CAL_WINDOW`: clock cycles per calibration window (R6). -/
def calWindow : Nat := 1048576

/-- `MAX_PPB` (R6, derived in 41_calibration_converter.md R133). -/
def maxPpb : Int := 488281

/-- `MIN_PPB` (R6, R133). -/
def minPpb : Int := -487328

/-- FREE VALUE (log entry 7): `nsec` of a GETTIME that read `SUBSEC` above `PREDIV_S` is any 32-bit value
(R177). The argument is how many such values have been drawn; nothing in Lean can evaluate it. -/
opaque Config.freeNsec : Nat → BitVec 32

/-- A counter step: the values the counter would give its volatile registers (20_memory.md R67).
What the contract forbids of them is not done (`counterStep`; log entry 19). -/
structure CounterMove where
  time : Word
  date : Word
  subsec : Word
  status : Word
deriving DecidableEq, Repr, Inhabited

/-- One entry of the schedule: which agent moves next, and with what (R11; log entry 1). -/
inductive Event where
  /-- The engine takes its step (10_state.md R24). -/
  | advance
  /-- Requester `r` hands over a command packet (30_encoding.md R92). -/
  | issue (r : Nat) (c : Packet)
  /-- The counter takes a step (20_memory.md R67). -/
  | counter (m : CounterMove)
  /-- The platform drives `CLK_READY` (10_state.md R36). -/
  | clkReady (b : Bool)
deriving DecidableEq, Repr, Inhabited

/-- FREE VALUE (log entry 1): the events that come when a state's own schedule is used up, any sequence without end
(R11, 43_time_transactions.md R180, 70_reset_and_hazards.md R296). The argument is how many have been taken. -/
opaque Config.freeEvent : Nat → Event

end Sys2Proof
end

