-- ==== Sys2Proof/Machine/State.lean ====
section
/-! DEFINITION. The machine's state as plain data, and the state after reset (10_state.md, 70_reset_and_hazards.md R280). -/

namespace Sys2Proof.Machine

/-- The status codes (60_exceptions.md R240). -/
inductive Status where
  | ok | invalidArgument | busy | timeout | deviceNotReady | internalConsistency
deriving DecidableEq, Repr

/-- The 21 values of the transaction-state register `TS` (10_state.md R24). -/
inductive TState where
  | idle
  | gtD1 | gtT1 | gtSs | gtT2 | gtD2
  | wsWpoff | wsReq | wsPoll | stWdate | stWtime | cfWctrl | cfWpresc | wsLeave | wsWpon
  | gcRd | scPoll | scWpoff | scWr
  | cfRctrl | cfRpresc
deriving DecidableEq, Repr

/-- The init-mode states of `IMS` (10_state.md R25). -/
inductive InitMode where
  | normal | enteringInit | init | leavingInit
deriving DecidableEq, Repr

/-- The nine counter-side registers (20_memory.md R61). -/
inductive CReg where
  | time | date | subsec | initctl | status | ctrl | presc | cal | wpctl
deriving DecidableEq, Repr

/-- One access of the history `HIST` (10_state.md R35): `rd(i, v)` or `wr(i, v)`. -/
inductive Access where
  | rd (i : CReg) (v : Word)
  | wr (i : CReg) (v : Word)
deriving DecidableEq, Repr

/-- The counter: its nine registers (10_state.md R37 to R45) and its one hidden bit. -/
structure Counter where
  time : Word
  date : Word
  subsec : Word
  initctl : Word
  status : Word
  ctrl : Word
  presc : Word
  cal : Word
  wpctl : Word
  /-- An accepted write of `CAL` has been made: what lets `CAL_PENDING` rise (20_memory.md R71; log entry 10). -/
  calWritten : Bool
deriving DecidableEq, Repr

/-- The whole machine: the block's registers (10_state.md sections 1 to 4), the counter (section 5), the input
`CLK_READY`, the fixed configuration, and the model's own fields
`inputs`, `cycle`, `eventCtr`, `issuer`, `freeCtr`. -/
structure State where
  /-- The parameters (00_scope.md R6); no step writes them (log entry 6). -/
  cfg : Config
  /-- `TS` (R24). -/
  ts : TState
  /-- `OPL` (R23). -/
  opl : Transaction
  /-- `IMS` (R25). -/
  ims : InitMode
  /-- `LOCK` (R21). -/
  lock : Bool
  /-- `OWNER` (R21). -/
  owner : Nat
  /-- `CONFIGURED` (R22). -/
  configured : Bool
  /-- `WU` (R26). -/
  wu : Bool
  /-- `ERR` (R31). -/
  err : Status
  /-- `CF_FMT` (R32). -/
  cfFmt : Bool
  /-- `TMO` (R29; log entry 15). -/
  tmo : Nat
  /-- `RTY` (R30), in use only under a retry cap; a number that does not wrap (log entry 14). -/
  rty : Nat
  /-- `SD` (R27). -/
  sd : Word
  /-- `ST` (R27). -/
  st : Word
  /-- `SS` (R27). -/
  ss : BitVec 16
  /-- `ARG_DATE` (R28). -/
  argDate : Word
  /-- `ARG_TIME` (R28). -/
  argTime : Word
  /-- `ARG_CAL` (R28). -/
  argCal : Word
  /-- `RESP[r]`, entry `r` of the list (R34): none, or the words of a response packet (30_encoding.md R95). -/
  resp : List (Option (List Word))
  /-- `HIST`, oldest access first (R35). -/
  hist : List Access
  /-- The counter-side registers (R37 to R45). -/
  counter : Counter
  /-- The input `CLK_READY` (R36). -/
  clkReady : Bool
  /-- The model's own: the events that come next (log entry 1). -/
  inputs : List Event
  /-- The model's own: the events that come after `inputs`, again and again; free events if there are none. -/
  cycle : List Event
  /-- The model's own: how many free events have been taken (log entry 1). -/
  eventCtr : Nat
  /-- The model's own: the requester whose issue step is being taken, the `r` of 30_encoding.md R92. -/
  issuer : Nat
  /-- The model's own: how many free values have been drawn (log entry 7). -/
  freeCtr : Nat
deriving DecidableEq, Repr

/-- Why a step has no outcome in the model. No command's meaning raises one. -/
inductive Fault where
  /-- Raised by `act`: the schedule names a requester that does not exist, `r >= NREQ` (00_scope.md R11).
  Safe: no such agent takes a step (log entry 18). -/
  | noSuchRequester
  /-- Raised by `wsPoll`: `INIT_ACTIVE` read 1 with an `OPL` other than SETTIME and CONFIG, for which
  10_state.md R49 has no transition. Safe: no run reaches it (log entry 12). -/
  | noScopeBody
deriving DecidableEq, Repr

/-- Why an instruction has no meaning. -/
inductive Refusal where
  /-- Raised only by an arm of `exec` whose instruction is not modelled yet: none is left. Safe: nothing runs. -/
  | notModelled (mnemonic : String)
deriving DecidableEq, Repr

/-- The counter at the block's reset, which the block's reset does not touch and for which the spec gives no
value (10_state.md R48). DESIGN CHOICE: all zero (log entry 5; unsafe). -/
def Counter.reset : Counter where
  time := 0#32
  date := 0#32
  subsec := 0#32
  initctl := 0#32
  status := 0#32
  ctrl := 0#32
  presc := 0#32
  cal := 0#32
  wpctl := 0#32
  calWritten := false

/-- A block right after reset, for any configuration and any counter (10_state.md R48, 70_reset_and_hazards.md R280).
The registers R48 calls unspecified hold 0, the first name, or the requester 0: DESIGN CHOICE (log entry 4; unsafe).
`CLK_READY` has no reset value (R36): DESIGN CHOICE 0 (log entry 5; unsafe). -/
def State.resetOf (cfg : Config) (counter : Counter) : State where
  cfg := cfg
  ts := .idle
  opl := .gettime
  ims := .normal
  lock := false
  owner := 0
  configured := false
  wu := false
  err := .ok
  cfFmt := false
  tmo := 0
  rty := 0
  sd := 0#32
  st := 0#32
  ss := 0#16
  argDate := 0#32
  argTime := 0#32
  argCal := 0#32
  resp := List.replicate cfg.nreq none
  hist := []
  counter := counter
  clkReady := false
  inputs := []
  cycle := []
  eventCtr := 0
  issuer := 0
  freeCtr := 0

/-- The machine right after reset: the default parameters and the counter of `Counter.reset`. -/
def State.reset : State := State.resetOf Config.default Counter.reset

end Sys2Proof.Machine
end

