-- ==== Sys2Proof/Machine/Flags.lean ====
section
/-! DEFINITION. The one-bit fields of the counter-side registers. The block itself has no condition codes
(10_state.md R33): its one-bit state is `LOCK`, `CONFIGURED`, `WU`, `CF_FMT`, fields of `State`. -/

namespace Sys2Proof.Machine

/-- `INITCTL.INIT_REQ` (10_state.md R40). -/
def Counter.initReq (c : Counter) : Bool := bit c.initctl 0

/-- `INIT_ACTIVE`, bit 0 of a `STATUS` word (R41). -/
def initActiveBit (status : Word) : Bool := bit status 0

/-- `CAL_PENDING`, bit 1 of a `STATUS` word (R41). -/
def calPendingBit (status : Word) : Bool := bit status 1

/-- `STATUS.INIT_ACTIVE` (R41). -/
def Counter.initActive (c : Counter) : Bool := initActiveBit c.status

/-- `STATUS.CAL_PENDING` (R41). -/
def Counter.calPending (c : Counter) : Bool := calPendingBit c.status

/-- `FMT`, bit 0 of a `CTRL` word (R42). -/
def fmtBit (ctrl : Word) : Bool := bit ctrl 0

/-- `WPCTL.WPEN` (R45). -/
def Counter.wpen (c : Counter) : Bool := bit c.wpctl 0

/-- `PREDIV_S`, bits 14:0 of a `PRESC` word (R43). -/
def prescS (presc : Word) : Nat := bits presc 14 0

/-- `PREDIV_A`, bits 22:16 of a `PRESC` word (R43). -/
def prescA (presc : Word) : Nat := bits presc 22 16

/-- `CALP`, bit 15 of a `CAL` word (R44). -/
def calpBit (cal : Word) : Bool := bit cal 15

/-- `CALM`, bits 8:0 of a `CAL` word (R44). -/
def calmField (cal : Word) : Nat := bits cal 8 0

end Sys2Proof.Machine
end

