-- ==== Sys2Proof/Machine/Operands.lean ====
section
/-! DEFINITION. The function units: rounding, BCD codec, weekday code, calibration converter, calendar words
(00_scope.md R9, 40_bcd_codec.md, 41_calibration_converter.md R131 to R133, 30_encoding.md R101, 43_time_transactions.md
R176, R182). -/

namespace Sys2Proof.Machine

/-- `rdiv(n, d)`: nearest integer to `n / d`, a tie away from zero (00_scope.md R9). -/
def rdiv (n : Int) (d : Nat) : Int :=
  if 0 ≤ n then (((2 * n.toNat + d) / (2 * d) : Nat) : Int)
  else -(((2 * (-n).toNat + d) / (2 * d) : Nat) : Int)

/-- `toBCD(x)` for `0 <= x <= 99` (40_bcd_codec.md R121). -/
def toBCD (x : Nat) : Nat := x / 10 * 16 + x % 10

/-- `fromBCD(b)` of any byte, its digits not validated (R121; log entry 8). -/
def fromBCD (b : Nat) : Nat := 10 * (b / 16 % 16) + b % 16

/-- A byte whose two digits are at most 9 (40_bcd_codec.md R120). -/
def validBCD (b : Nat) : Bool := decide (b / 16 ≤ 9 ∧ b % 16 ≤ 9)

/-- The hardware weekday code of a public weekday (30_encoding.md R101). -/
def wdayToHw (w : Int) : Nat := if w = 0 then 7 else w.toNat

/-- The public weekday of a hardware code (R101). -/
def wdayFromHw (h : Nat) : Nat := if h = 7 then 0 else h

/-- `ppbToPulses` (41_calibration_converter.md R131). -/
def ppbToPulses (ppb : Int) : Int := rdiv (ppb * 2048) 1953125

/-- `pulsesToPpb` (R131). -/
def pulsesToPpb (p : Int) : Int := rdiv (p * 1953125) 2048

/-- `calEncode(p)` as the `CAL` word (R132). -/
def calEncode (p : Int) : Word :=
  if 0 < p then BitVec.ofNat 32 (2 ^ 15 + (calPlus - p).toNat) else BitVec.ofNat 32 (-p).toNat

/-- `calDecode(CALP, CALM)` (R132). -/
def calDecode (calp : Bool) (calm : Nat) : Int := (if calp then calPlus else 0) - (calm : Int)

/-- The ppb range test of R133, R135, R204: outside it is an argument error. -/
def ppbOutOfRange (ppb : Int) : Bool := decide (ppb < minPpb ∨ maxPpb < ppb)

/-- The pulse counts `CAL` cannot hold (R130, R137). -/
def pulsesOutOfRange (p : Int) : Bool := decide (p < -calMagMax ∨ calPlus < p)

/-- The argument errors of SETTIME: `year` outside 0 to 99, `wday` outside 0 to 6 (30_encoding.md R98). -/
def settimeOutOfRange (year wday : Int) : Bool := decide (year < 0 ∨ 99 < year ∨ wday < 0 ∨ 6 < wday)

/-- `ARG_DATE` of an accepted SETTIME (43_time_transactions.md R182). -/
def dateWord (year : Int) (month day : Nat) (wday : Int) : Word :=
  BitVec.ofNat 32
    (toBCD year.toNat * 2 ^ 16 + wdayToHw wday * 2 ^ 13 + toBCD month * 2 ^ 8 + toBCD day)

/-- `ARG_TIME` of an accepted SETTIME (R182). -/
def timeWord (hour minute second : Nat) : Word :=
  BitVec.ofNat 32 (toBCD hour * 2 ^ 16 + toBCD minute * 2 ^ 8 + toBCD second)

/-- `W_DATE` of a snapshot's date word (R176, 30_encoding.md R96). -/
def translateDate (sd : Word) : Word :=
  packDate (fromBCD (bits sd 23 16)) (fromBCD (bits sd 12 8)) (fromBCD (bits sd 5 0))

/-- `W_TIME` of a snapshot's date and time words (R176, R96). -/
def translateTime (sd st : Word) : Word :=
  packTime (wdayFromHw (bits sd 15 13)) (fromBCD (bits st 21 16)) (fromBCD (bits st 14 8))
    (fromBCD (bits st 6 0))

/-- The nanoseconds of a subsecond value at most `PREDIV_S` (R176). -/
def nanoseconds (predivS : Nat) (ss : Nat) : Int :=
  rdiv (((predivS : Int) - ss) * 1000000000) (predivS + 1)

/-- `W_AUX`: `yday` and `isdst` always -1 (R176, R96). -/
def auxWord : Word := 0xFFFFFFFF#32

/-- The `PRESC` word of the target prescalers (45_config_sequencer.md R225). -/
def prescWord (predivA predivS : Nat) : Word := BitVec.ofNat 32 (predivA * 2 ^ 16 + predivS)

/-- The `CTRL` word of an hour format (R224). -/
def ctrlWord (fmt : Bool) : Word := BitVec.ofNat 32 fmt.toNat

end Sys2Proof.Machine
end

