-- ==== Sys2Proof/Machine/Ops.lean ====
section
/-! DEFINITION. The shared operations: accesses to the counter, responses, `finish` and `fail`, and the issue step of a
transaction (20_memory.md R64 to R71, 60_exceptions.md R240 to R250, 30_encoding.md R92 to R95). -/

namespace Sys2Proof.Machine

/-! ### The counter-side register space -/

/-- The index of a register (20_memory.md R61). -/
def CReg.index : CReg → Nat
  | .time => 0
  | .date => 1
  | .subsec => 2
  | .initctl => 3
  | .status => 4
  | .ctrl => 5
  | .presc => 6
  | .cal => 7
  | .wpctl => 8

/-- The register of an index; 9 and above are reserved (R61). -/
def CReg.ofIndex : Nat → Option CReg
  | 0 => some .time
  | 1 => some .date
  | 2 => some .subsec
  | 3 => some .initctl
  | 4 => some .status
  | 5 => some .ctrl
  | 6 => some .presc
  | 7 => some .cal
  | 8 => some .wpctl
  | _ => none

/-- The byte offset of a register in the byte view (R61; 00_scope.md R10). -/
def CReg.byteOffset (i : CReg) : Nat := 4 * i.index

/-- The value the counter presents for a register (20_memory.md R64). -/
def Counter.read (c : Counter) : CReg → Word
  | .time => c.time
  | .date => c.date
  | .subsec => c.subsec
  | .initctl => c.initctl
  | .status => c.status
  | .ctrl => c.ctrl
  | .presc => c.presc
  | .cal => c.cal
  | .wpctl => c.wpctl

/-- Whether the counter stores a write (R69). `SUBSEC` and `STATUS` are read-only (10_state.md R39, R41). -/
def Counter.accepts (c : Counter) : CReg → Bool
  | .wpctl | .initctl => true
  | .cal => !c.wpen
  | .time | .date | .ctrl | .presc => !c.wpen && c.initActive
  | .subsec | .status => false

/-- The counter with a register replaced. -/
def Counter.put (c : Counter) (i : CReg) (v : Word) : Counter :=
  match i with
  | .time => { c with time := v }
  | .date => { c with date := v }
  | .subsec => { c with subsec := v }
  | .initctl => { c with initctl := v }
  | .status => { c with status := v }
  | .ctrl => { c with ctrl := v }
  | .presc => { c with presc := v }
  | .cal => { c with cal := v, calWritten := true }
  | .wpctl => { c with wpctl := v }

/-- A write presented to the counter: stored where R69 says so, else the old value stays (93 U6; log entry 11). -/
def Counter.write (c : Counter) (i : CReg) (v : Word) : Counter :=
  if c.accepts i then c.put i v else c

/-- The state after `CRead(i)`: only the history grows, a read has no side effect (20_memory.md R64, R74). -/
def logRead (i : CReg) (s : State) : State :=
  { s with hist := s.hist ++ [.rd i (s.counter.read i)] }

/-- The state after `CWrite(i, v)` (R64). -/
def cwrite (i : CReg) (v : Word) (s : State) : State :=
  { s with counter := s.counter.write i v, hist := s.hist ++ [.wr i v] }

/-! ### Responses -/

/-- The numbers of the status codes (60_exceptions.md R240). -/
def Status.code : Status → Nat
  | .ok => 0
  | .invalidArgument => 1
  | .busy => 2
  | .timeout => 3
  | .deviceNotReady => 4
  | .internalConsistency => 5

/-- `RW0`: the opcode echo in bits 31:28, the status in bits 3:0 (30_encoding.md R95). -/
def responseHeader (opcode : Nat) (e : Status) : Word := BitVec.ofNat 32 (opcode * 2 ^ 28 + e.code)

/-- A response packet: the header, and the payload only when the status is `OK` (R95). -/
def response (opcode : Nat) (e : Status) (payload : List Word) : List Word :=
  match e with
  | .ok => responseHeader opcode .ok :: payload
  | e => [responseHeader opcode e]

/-- `RESP[r]` (10_state.md R34): a requester reads it at any time, with no effect. -/
def State.mailbox (s : State) (r : Nat) : Option (List Word) := (s.resp[r]?).getD none

/-- `RESP[r] <- v`. -/
def setMailbox (r : Nat) (v : Option (List Word)) (s : State) : State :=
  { s with resp := s.resp.set r v }

/-- `respond(r, e, payload)` (R34). -/
def respond (r : Nat) (opcode : Nat) (e : Status) (payload : List Word) (s : State) : State :=
  setMailbox r (some (response opcode e payload)) s

/-! ### Ending a transaction, and failing -/

/-- `finish(e, payload)`: the one way a transaction ends (60_exceptions.md R247). -/
def finish (e : Status) (payload : List Word) (s : State) : State :=
  { respond s.owner s.opl.op.code e payload s with lock := false, ts := .idle }

/-- `fail(e)` in the issue step: a response and nothing else (R246, first form). -/
def failInIssue (op : Op) (e : Status) (s : State) : State := respond s.issuer op.code e [] s

/-- `fail(e)` in an engine step with `WU = 0` (R246, second form). -/
def failUnscoped (e : Status) (s : State) : State := finish e [] s

/-- `fail(e)` in an engine step with `WU = 1` (R246, third form): its one user is the timeout of `WS_POLL`, whose
action 42_init_mode.md R155 spells out. -/
def failInScope (e : Status) (s : State) : State :=
  { s with err := e, ims := .leavingInit, ts := .wsLeave }

/-! ### The issue step -/

/-- The first line of the issue step: `RESP[r] <- none` (30_encoding.md R92). -/
def openIssue (s : State) : State := setMailbox s.issuer none s

/-- The issue step of a pure operation (R92): `none` is an argument error. -/
def answerPure (op : Op) (result : Option (List Word)) (s : State) : State :=
  match result with
  | none => failInIssue op .invalidArgument (openIssue s)
  | some payload => respond s.issuer op.code .ok payload (openIssue s)

/-- The acceptance checks 2 to 5 of a transaction, in order: the first that fails names the status (R93). -/
def acceptanceError (t : Transaction) (s : State) : Option Status :=
  if t = .config ∧ s.configured then some .invalidArgument
  else if t ≠ .config ∧ ¬s.configured then some .deviceNotReady
  else if s.lock then some .busy
  else if t = .config ∧ ¬s.clkReady then some .deviceNotReady
  else none

/-- The first state of each transaction (R93). -/
def firstState : Transaction → TState
  | .gettime => .gtD1
  | .settime => .wsWpoff
  | .getcal => .gcRd
  | .setcal => .scPoll
  | .config => .cfRctrl

/-- Check 6, acceptance, before the command latches its operands (R93). -/
def accept (t : Transaction) (s : State) : State :=
  { s with lock := true, owner := s.issuer, opl := t, err := .ok, ts := firstState t }

/-- The issue step of a transaction (R92, R93): an argument error, a failed check, or acceptance with the
command's own latches. -/
def issueTransaction (t : Transaction) (argumentError : Bool) (latch : State → State) (s : State) : State :=
  if argumentError then failInIssue t.op .invalidArgument (openIssue s)
  else
    match acceptanceError t s with
    | some e => failInIssue t.op e (openIssue s)
    | none => latch (accept t (openIssue s))

/-- The issue step of a malformed packet: `InvalidArgument`, the opcode field echoed as received (R95, R98). -/
def answerMalformed (cw0 : Word) (s : State) : State :=
  respond s.issuer (bits cw0 31 28) .invalidArgument [] (openIssue s)

end Sys2Proof.Machine
end

