-- ==== Sys2Proof/Machine/Bcd.lean ====
section
/-! DEFINITION. The BCD codec's commands (40_bcd_codec.md). -/

namespace Sys2Proof.Machine

/-- `TOBCD x` (R122). -/
def execTobcd (x : Nat) (s : State) : Host.Outcome State Fault Refusal :=
  .next (answerPure .tobcd (if 99 < x then none else some [BitVec.ofNat 32 (toBCD x)]) s)

/-- `FROMBCD b` (R123). -/
def execFrombcd (b : Byte) (s : State) : Host.Outcome State Fault Refusal :=
  .next (answerPure .frombcd (some [BitVec.ofNat 32 (fromBCD b.toNat)]) s)

end Sys2Proof.Machine
end

