-- ==== Sys2Proof/Machine/Calibration.lean ====
section
/-! DEFINITION. The calibration transactions: GETCAL and SETCAL, their issue steps and their engine states
(44_calibration_transactions.md). -/

namespace Sys2Proof.Machine

/-- `GETCAL`, the issue step (R201). -/
def execGetcal (s : State) : Host.Outcome State Fault Refusal :=
  .next (issueTransaction .getcal (!s.cfg.hasSmoothCal) (fun s => s) s)

/-- `SETCAL`, the issue step (R204, R205). -/
def execSetcal (ppb : Int) (s : State) : Host.Outcome State Fault Refusal :=
  .next (issueTransaction .setcal (!s.cfg.hasSmoothCal || ppbOutOfRange ppb)
    (fun s => { s with argCal := calEncode (ppbToPulses ppb), tmo := s.cfg.calPollBudget }) s)

/-- The ppb a `CAL` word stands for (R202). -/
def calWordPpb (cal : Word) : Int := pulsesToPpb (calDecode (calpBit cal) (calmField cal))

/-- `GC_RD` (R202). -/
def gcRd (s : State) : State :=
  finish .ok [wordOfInt (calWordPpb (s.counter.read .cal))] (logRead .cal s)

/-- `SC_POLL` (R206). -/
def scPoll (s : State) : State :=
  if calPendingBit (s.counter.read .status) then
    if 0 < s.tmo then { logRead .status s with tmo := s.tmo - 1 }
    else failUnscoped .timeout (logRead .status s)
  else { logRead .status s with ts := .scWpoff }

/-- `SC_WPOFF` (R207). -/
def scWpoff (s : State) : State := { cwrite .wpctl 0x00000000#32 s with wu := true, ts := .scWr }

/-- `SC_WR` (R208). -/
def scWr (s : State) : State := { cwrite .cal s.argCal s with ts := .wsWpon }

end Sys2Proof.Machine
end

