-- ==== Sys2Proof/Machine/Converter.lean ====
section
/-! DEFINITION. The calibration converter's commands (41_calibration_converter.md R135 to R138, R140). -/

namespace Sys2Proof.Machine

/-- `PPB2PULSES ppb` (R135). -/
def execPpb2pulses (ppb : Int) (s : State) : Host.Outcome State Fault Refusal :=
  .next (answerPure .ppb2pulses
    (if ¬s.cfg.hasSmoothCal then none
     else if ppbOutOfRange ppb then none
     else some [wordOfInt (ppbToPulses ppb)]) s)

/-- `PULSES2PPB pulses` (R136): no range check. -/
def execPulses2ppb (pulses : Int) (s : State) : Host.Outcome State Fault Refusal :=
  .next (answerPure .pulses2ppb
    (if ¬s.cfg.hasSmoothCal then none else some [wordOfInt (pulsesToPpb pulses)]) s)

/-- `CALENC pulses` (R137). -/
def execCalenc (pulses : Int) (s : State) : Host.Outcome State Fault Refusal :=
  .next (answerPure .calenc
    (if ¬s.cfg.hasSmoothCal then none
     else if pulsesOutOfRange pulses then none
     else some [calEncode pulses]) s)

/-- `CALDEC flag, magnitude` (R138). -/
def execCaldec (flag : Bool) (magnitude : Nat) (s : State) : Host.Outcome State Fault Refusal :=
  .next (answerPure .caldec
    (if ¬s.cfg.hasSmoothCal then none else some [wordOfInt (calDecode flag magnitude)]) s)

end Sys2Proof.Machine
end

