-- ==== Sys2Proof/Machine/Scope.lean ====
section
/-! DEFINITION. The init-mode controller: the states of the write scope (42_init_mode.md). -/

namespace Sys2Proof.Machine

/-- `WS_WPOFF` (R152). -/
def wsWpoff (s : State) : State := { cwrite .wpctl 0x00000000#32 s with wu := true, ts := .wsReq }

/-- `WS_REQ` (R153). -/
def wsReq (s : State) : State :=
  { cwrite .initctl 0x00000001#32 s with
    ims := .enteringInit, tmo := s.cfg.initPollBudget, ts := .wsPoll }

/-- The first state of the body a transaction supplies (R154). -/
def scopeBody : Transaction → Option TState
  | .settime => some .stWdate
  | .config => some .cfWctrl
  | .gettime | .getcal | .setcal => none

/-- `WS_POLL` (R154, R155): the flag is tested before the budget. -/
def wsPoll (s : State) : Host.Outcome State Fault Refusal :=
  if initActiveBit (s.counter.read .status) then
    match scopeBody s.opl with
    | some body => .next { logRead .status s with ims := .init, ts := body }
    | none => .fault .noScopeBody
  else if 0 < s.tmo then .next { logRead .status s with tmo := s.tmo - 1 }
  else .next (failInScope .timeout (logRead .status s))

/-- `WS_LEAVE` (R156): unconditional, no wait. -/
def wsLeave (s : State) : State :=
  { cwrite .initctl 0x00000000#32 s with ims := .normal, ts := .wsWpon }

/-- `WS_WPON`, the finishing state of SETTIME, CONFIG and SETCAL (R157). -/
def wsWpon (s : State) : State :=
  finish s.err []
    { cwrite .wpctl 0x00000001#32 s with
      wu := false
      configured := s.configured || (decide (s.opl = .config) && decide (s.err = .ok)) }

end Sys2Proof.Machine
end

