-- ==== Sys2Proof/Machine/Sequencer.lean ====
section
/-! DEFINITION. The configuration sequencer: CONFIG, its issue step and its engine states (45_config_sequencer.md). -/

namespace Sys2Proof.Machine

/-- `CONFIG`, the issue step (R220). -/
def execConfig (s : State) : Host.Outcome State Fault Refusal :=
  .next (issueTransaction .config false (fun s => s) s)

/-- `CF_RCTRL` (R222). -/
def cfRctrl (s : State) : State :=
  { logRead .ctrl s with cfFmt := fmtBit (s.counter.read .ctrl), ts := .cfRpresc }

/-- The three named fields match the target; reserved bits take no part (R220, R223). -/
def configMatches (cfg : Config) (fmt : Bool) (presc : Word) : Bool :=
  decide (fmt = targetFmt ∧ prescS presc = cfg.predivS ∧ prescA presc = cfg.predivA)

/-- `CF_RPRESC` (R223). -/
def cfRpresc (s : State) : State :=
  if configMatches s.cfg s.cfFmt (s.counter.read .presc) then
    finish .ok [] { logRead .presc s with configured := true }
  else { logRead .presc s with ts := .wsWpoff }

/-- `CF_WCTRL` (R224). -/
def cfWctrl (s : State) : State := { cwrite .ctrl (ctrlWord targetFmt) s with ts := .cfWpresc }

/-- `CF_WPRESC` (R225). -/
def cfWpresc (s : State) : State :=
  { cwrite .presc (prescWord s.cfg.predivA s.cfg.predivS) s with ims := .leavingInit, ts := .wsLeave }

end Sys2Proof.Machine
end

