-- ==== Sys2Proof/Machine/Time.lean ====
section
/-! DEFINITION. The time transactions: GETTIME and SETTIME, their issue steps and their engine states
(43_time_transactions.md). -/

namespace Sys2Proof.Machine

/-- GETTIME's own latch: `RTY <- 0` when there is a cap (R170, R179). -/
def latchGettime (s : State) : State :=
  match s.cfg.readRetryCap with
  | none => s
  | some _ => { s with rty := 0 }

/-- `GETTIME`, the issue step (R170). -/
def execGettime (s : State) : Host.Outcome State Fault Refusal :=
  .next (issueTransaction .gettime false latchGettime s)

/-- `SETTIME`, the issue step (R181, R182). -/
def execSettime (year : Int) (month day : Nat) (wday : Int) (hour minute second : Nat) (s : State) :
    Host.Outcome State Fault Refusal :=
  .next (issueTransaction .settime (settimeOutOfRange year wday)
    (fun s => { s with
      argDate := dateWord year month day wday
      argTime := timeWord hour minute second }) s)

/-- `GT_D1` (R171). -/
def gtD1 (s : State) : State :=
  { logRead .date s with sd := s.counter.read .date, ts := .gtT1 }

/-- `GT_T1` (R172). -/
def gtT1 (s : State) : State :=
  { logRead .time s with st := s.counter.read .time, ts := .gtSs }

/-- `GT_SS` (R173): only `SUBSEC[15:0]` is kept. -/
def gtSs (s : State) : State :=
  { logRead .subsec s with ss := BitVec.ofNat 16 (bits (s.counter.read .subsec) 15 0), ts := .gtT2 }

/-- A mismatch, then the retry at `retry` unless the cap is exceeded (R174, R175, R179; 92 D33: nothing wraps). -/
def mismatch (retry : TState) (s : State) : State :=
  match s.cfg.readRetryCap with
  | none => { s with ts := retry }
  | some cap =>
    if cap < s.rty + 1 then failUnscoped .internalConsistency { s with rty := s.rty + 1 }
    else { s with rty := s.rty + 1, ts := retry }

/-- `GT_T2` (R174): all 32 bits compared; `SD` is kept on a mismatch. -/
def gtT2 (s : State) : State :=
  if s.counter.read .time = s.st then { logRead .time s with ts := .gtD2 }
  else mismatch .gtT1 (logRead .time s)

/-- `translate(SD, ST, SS)` as the payload `W_DATE`, `W_TIME`, `W_NSEC`, `W_AUX` (R176). -/
def timePayload (sd st nsec : Word) : List Word :=
  [translateDate sd, translateTime sd st, nsec, auxWord]

/-- The successful end of GETTIME (R175, R176). With `SS > PREDIV_S`, `W_NSEC` is a free value and everything
else is as R176 gives (R177; log entry 7). -/
def finishGettime (s : State) : State :=
  if s.ss.toNat ≤ s.cfg.predivS then
    finish .ok (timePayload s.sd s.st (wordOfInt (nanoseconds s.cfg.predivS s.ss.toNat))) s
  else
    { finish .ok (timePayload s.sd s.st (Config.freeNsec s.freeCtr)) s with freeCtr := s.freeCtr + 1 }

/-- `GT_D2` (R175): all 32 bits compared; everything is retaken on a mismatch. -/
def gtD2 (s : State) : State :=
  if s.counter.read .date = s.sd then finishGettime (logRead .date s)
  else mismatch .gtD1 (logRead .date s)

/-- `ST_WDATE` (R183). -/
def stWdate (s : State) : State := { cwrite .date s.argDate s with ts := .stWtime }

/-- `ST_WTIME` (R184). -/
def stWtime (s : State) : State :=
  { cwrite .time s.argTime s with ims := .leavingInit, ts := .wsLeave }

end Sys2Proof.Machine
end

