-- ==== Sys2Proof/Machine/Dispatch.lean ====
section
/-! DEFINITION. `exec`: the issue step of each command (30_encoding.md R92), one arm per constructor. -/

namespace Sys2Proof.Machine

def exec (i : Instr) (s : State) : Host.Outcome State Fault Refusal :=
  match i with
  | .gettime => Sys2Proof.Machine.execGettime s
  | .settime year month day wday hour minute second => Sys2Proof.Machine.execSettime year month day wday hour minute second s
  | .getcal => Sys2Proof.Machine.execGetcal s
  | .setcal ppb => Sys2Proof.Machine.execSetcal ppb s
  | .config => Sys2Proof.Machine.execConfig s
  | .tobcd x => Sys2Proof.Machine.execTobcd x s
  | .frombcd b => Sys2Proof.Machine.execFrombcd b s
  | .ppb2pulses ppb => Sys2Proof.Machine.execPpb2pulses ppb s
  | .pulses2ppb pulses => Sys2Proof.Machine.execPulses2ppb pulses s
  | .calenc pulses => Sys2Proof.Machine.execCalenc pulses s
  | .caldec flag magnitude => Sys2Proof.Machine.execCaldec flag magnitude s

end Sys2Proof.Machine
end

