-- ==== Sys2Proof/Machine/Agents.lean ====
section
/-! DEFINITION. The agents and their steps: requesters, engine, counter, platform (00_scope.md R11), and the schedule
that says which moves next (log entry 1). -/

namespace Sys2Proof.Machine

/-- The engine's step, the action of the current `TS` (10_state.md R24, R49). In `IDLE` it has none: the block waits
(70_reset_and_hazards.md R280; log entry 3). -/
def advance (s : State) : Host.Outcome State Fault Refusal :=
  match s.ts with
  | .idle => .next s
  | .gtD1 => .next (gtD1 s)
  | .gtT1 => .next (gtT1 s)
  | .gtSs => .next (gtSs s)
  | .gtT2 => .next (gtT2 s)
  | .gtD2 => .next (gtD2 s)
  | .wsWpoff => .next (wsWpoff s)
  | .wsReq => .next (wsReq s)
  | .wsPoll => wsPoll s
  | .stWdate => .next (stWdate s)
  | .stWtime => .next (stWtime s)
  | .cfWctrl => .next (cfWctrl s)
  | .cfWpresc => .next (cfWpresc s)
  | .wsLeave => .next (wsLeave s)
  | .wsWpon => .next (wsWpon s)
  | .gcRd => .next (gcRd s)
  | .scPoll => .next (scPoll s)
  | .scWpoff => .next (scWpoff s)
  | .scWr => .next (scWr s)
  | .cfRctrl => .next (cfRctrl s)
  | .cfRpresc => .next (cfRpresc s)

/-- `INIT_ACTIVE` after a counter step that would make it `want` (20_memory.md R70): it rises only under a request
and falls only without one. -/
def nextInitActive (c : Counter) (want : Bool) : Bool :=
  if c.initActive then want || c.initReq else want && c.initReq

/-- `CAL_PENDING` after a counter step that would make it `want` (R71): it rises only after an accepted write of
`CAL`, and falls at will (log entry 10). -/
def nextCalPending (c : Counter) (want : Bool) : Bool :=
  if c.calPending then want else want && c.calWritten

/-- A `STATUS` word with its two flags given, the reserved bits as in `w` (R41, R67). -/
def statusWord (w : Word) (initActive calPending : Bool) : Word :=
  BitVec.ofNat 32 (bits w 31 2 * 2 ^ 2 + calPending.toNat * 2 + initActive.toNat)

/-- A counter step (R66 to R72). The volatile registers take the values of the move, except: the flags obey R70 and
R71; `TIME` and `DATE` do not advance while `INIT_ACTIVE = 1`, and when it falls `SUBSEC.SS` restarts from
`PRESC.PREDIV_S` (R72; log entry 9), the reserved bits 31:16 as the move has them (log entry 27).
The stable registers do not change (R68). -/
def counterStep (m : CounterMove) (c : Counter) : Counter :=
  { c with
    time := if c.initActive then c.time else m.time
    date := if c.initActive then c.date else m.date
    subsec :=
      if c.initActive ∧ ¬nextInitActive c (initActiveBit m.status) then
        BitVec.ofNat 32 (bits m.subsec 31 16 * 2 ^ 16 + prescS c.presc)
      else m.subsec
    status :=
      statusWord m.status (nextInitActive c (initActiveBit m.status))
        (nextCalPending c (calPendingBit m.status)) }

/-- The issue step of requester `r` with packet `c` (R92), its event already taken from the schedule. -/
def issue (r : Nat) (c : Packet) (s : State) : Host.Outcome State Fault Refusal :=
  match decode c with
  | .ok i => exec i { s with issuer := r }
  | .error _ => .next (answerMalformed c.cw0 { s with issuer := r })

/-- The event a state meets once its own schedule is used up: any step of any agent that exists (R11; log entry 1). -/
def freeEvent (s : State) : Event :=
  match Config.freeEvent s.eventCtr with
  | .advance => .advance
  | .issue r c => .issue (r % s.cfg.nreq) c
  | .counter m => .counter m
  | .clkReady b => .clkReady b

/-- The event that comes next: the first of `inputs`, after them `cycle` again and again, and without it free events
(log entry 1). -/
def nextEvent (s : State) : Event :=
  match s.inputs, s.cycle with
  | e :: _, _ => e
  | [], e :: _ => e
  | [], [] => freeEvent s

/-- The state with the next event taken from its schedule. -/
def useEvent (s : State) : State :=
  match s.inputs, s.cycle with
  | _ :: rest, _ => { s with inputs := rest }
  | [], _ :: rest => { s with inputs := rest }
  | [], [] => { s with eventCtr := s.eventCtr + 1 }

/-- The step an event stands for (R11). -/
def act (e : Event) (s : State) : Host.Outcome State Fault Refusal :=
  match e with
  | .advance => advance s
  | .issue r c => if s.cfg.nreq ≤ r then .fault .noSuchRequester else issue r c s
  | .counter m => .next { s with counter := counterStep m s.counter }
  | .clkReady b => .next { s with clkReady := b }

/-- The event is an issue by the owner of the transaction in flight, who has no issue step (93 U17; log entry 2). -/
def ownerWaits (e : Event) (s : State) : Bool :=
  match e with
  | .issue r _ => decide (r < s.cfg.nreq) && s.lock && decide (s.owner = r)
  | .advance | .counter _ | .clkReady _ => false

/-- One step: the next event's. An issue that has to wait stays next, and the engine, which is enabled, takes the
step (log entry 2). -/
def turn (s : State) : Host.Outcome State Fault Refusal :=
  if ownerWaits (nextEvent s) s then advance s else act (nextEvent s) (useEvent s)

/-- The least requester that may issue: 0, or 1 while 0 owns the transaction in flight (R92). -/
def freeRequester (s : State) : Nat := if s.lock = true ∧ s.owner = 0 then 1 else 0

/-- The command of a table word put first in the schedule, from a requester that may issue (log entry 1). -/
def offerTableWord (nbits w : Nat) (s : State) : State :=
  { s with inputs := .issue (freeRequester s) (tablePacket nbits w) :: s.inputs }

end Sys2Proof.Machine
end

