-- ==== Sys2Proof/Machine/Step.lean ====
section
/-! DEFINITION. The step function, and where it takes its next command from. -/

namespace Sys2Proof.Machine

/-- One step of the machine: one agent's step (00_scope.md R11). -/
def step (s : State) : Host.Outcome State Fault Refusal := turn s

/-- The state with a table word as the next command handed over (log entry 1). -/
def State.withFetchWord (s : State) (nbits w : Nat) : State := offerTableWord nbits w s

end Sys2Proof.Machine
end

