-- ==== Sys2Proof/WellFormed.lean ====
section
/-! DEFINITION. Which operands a packet can carry: the ranges of 30_encoding.md R94, R96, R103. -/

namespace Sys2Proof

/-- A signed operand of `n` bits. -/
def inSigned (n : Nat) (v : Int) : Bool := decide (-(2 : Int) ^ (n - 1) ≤ v ∧ v < (2 : Int) ^ (n - 1))

/-- The operands fit the fields of a well-formed command (R94, R96, R103).
`year` and `wday` range over their whole fields: values outside 0 to 99 and 0 to 6 are argument errors,
not malformed (R98). `month` has 4 bits, `day` and `hour` 5, `minute` and `second` 6. -/
def Instr.wf : Instr → Bool
  | .gettime => true
  | .settime year month day wday hour minute second =>
      inSigned 16 year && decide (month ≤ 15) && decide (day ≤ 31) && inSigned 8 wday &&
        decide (hour ≤ 31) && decide (minute ≤ 63) && decide (second ≤ 63)
  | .getcal => true
  | .setcal ppb => inSigned 32 ppb
  | .config => true
  | .tobcd x => decide (x ≤ 255)
  | .frombcd _ => true
  | .ppb2pulses ppb => inSigned 32 ppb
  | .pulses2ppb pulses => inSigned 16 pulses
  | .calenc pulses => inSigned 16 pulses
  | .caldec _ magnitude => decide (magnitude ≤ 511)

end Sys2Proof
end

