-- ==== Sys2Proof/Safety.lean ====
section
/-! DEFINITION. The terms in which statements speak of runs: runs, traces, the invariants of 10_state.md R33,
42_init_mode.md R158, 45_config_sequencer.md R226, 60_exceptions.md R251, and NoABA (20_memory.md R73). -/

namespace Sys2Proof.Machine

/-- `n` steps, stopping at the first fault or refusal. -/
def runs : Nat → State → Host.Outcome State Fault Refusal
  | 0, s => .next s
  | n + 1, s =>
    match step s with
    | .next t => runs n t
    | .fault e => .fault e
    | .refused e => .refused e

/-- `tr 0, …, tr n` are the states of a run. -/
def IsTrace (tr : Nat → State) (n : Nat) : Prop := ∀ k, k < n → step (tr k) = .next (tr (k + 1))

/-- A block right after reset (70_reset_and_hazards.md R280) under any schedule and any `CLK_READY`. -/
def State.boot (cfg : Config) (counter : Counter) (clkReady : Bool) (inputs cycle : List Event) : State :=
  { State.resetOf cfg counter with clkReady := clkReady, inputs := inputs, cycle := cycle }

/-- The next step is the engine's. -/
def engineMoves (s : State) : Bool := decide (nextEvent s = .advance) || ownerWaits (nextEvent s) s

/-- The register a state of `TS` reads (10_state.md R24). -/
def TState.reads : TState → Option CReg
  | .gtD1 | .gtD2 => some .date
  | .gtT1 | .gtT2 => some .time
  | .gtSs => some .subsec
  | .wsPoll | .scPoll => some .status
  | .gcRd => some .cal
  | .cfRctrl => some .ctrl
  | .cfRpresc => some .presc
  | .idle | .wsWpoff | .wsReq | .stWdate | .stWtime | .cfWctrl | .cfWpresc | .wsLeave | .wsWpon
  | .scWpoff | .scWr => none

/-- The next step is a `CRead(i)`. -/
def ReadsNow (i : CReg) (s : State) : Prop := engineMoves s = true ∧ s.ts.reads = some i

/-- `NoABA` over the states `tr 0, …, tr n` (R73): for `TIME` and `DATE`, if two reads of the register return equal
values, it held that value at every instant between them. -/
def NoABA (tr : Nat → State) (n : Nat) : Prop :=
  ∀ i, i = CReg.time ∨ i = CReg.date →
    ∀ j k l, j ≤ k → k ≤ l → l < n → ReadsNow i (tr j) → ReadsNow i (tr l) →
      (tr j).counter.read i = (tr l).counter.read i → (tr k).counter.read i = (tr j).counter.read i

/-- A malformed packet, in the words of 30_encoding.md R98 with R94's and R96's lengths and must-be-zero bits. -/
def IsMalformed (p : Packet) : Prop :=
  let op := bits p.cw0 31 28
  (op = 0x0 ∨ op = 0x6 ∨ op = 0x7 ∨ op = 0xE ∨ op = 0xF) ∨
  ((op = 0x1 ∨ op = 0x3 ∨ op = 0x5) ∧ (p.length ≠ 1 ∨ bits p.cw0 27 0 ≠ 0)) ∨
  ((op = 0x8 ∨ op = 0x9) ∧ (p.length ≠ 1 ∨ bits p.cw0 27 8 ≠ 0)) ∨
  ((op = 0xB ∨ op = 0xC) ∧ (p.length ≠ 1 ∨ bits p.cw0 27 16 ≠ 0)) ∨
  (op = 0xD ∧ (p.length ≠ 1 ∨ bits p.cw0 27 16 ≠ 0 ∨ bits p.cw0 14 9 ≠ 0)) ∨
  ((op = 0x4 ∨ op = 0xA) ∧ (p.length ≠ 2 ∨ bits p.cw0 27 0 ≠ 0)) ∨
  (op = 0x2 ∧ (p.length ≠ 3 ∨ bits p.cw0 27 0 ≠ 0 ∨ bits p.cw1 15 12 ≠ 0 ∨ bits p.cw1 7 5 ≠ 0 ∨
    bits p.cw2 23 21 ≠ 0 ∨ bits p.cw2 15 14 ≠ 0 ∨ bits p.cw2 7 6 ≠ 0))

/-- The next event is requester `r` handing over `p`, and it may issue (R92's precondition, 00_scope.md R11). -/
structure MayIssue (s : State) (r : Nat) (p : Packet) : Prop where
  next : nextEvent s = .issue r p
  port : r < s.cfg.nreq
  free : ¬(s.lock = true ∧ s.owner = r)

/-- The transitions of `TS` made by the engine (10_state.md R49), less their conditions. R49 has no row from `IDLE` to
itself: that one is the model's (DESIGN CHOICE; log entry 3). -/
def TState.goesTo : TState → TState → Bool
  | .idle, t => t = .idle
  | .gtD1, t => t = .gtT1
  | .gtT1, t => t = .gtSs
  | .gtSs, t => t = .gtT2
  | .gtT2, t => t = .gtD2 || t = .gtT1 || t = .idle
  | .gtD2, t => t = .idle || t = .gtD1
  | .wsWpoff, t => t = .wsReq
  | .wsReq, t => t = .wsPoll
  | .wsPoll, t => t = .stWdate || t = .cfWctrl || t = .wsPoll || t = .wsLeave
  | .stWdate, t => t = .stWtime
  | .stWtime, t => t = .wsLeave
  | .cfWctrl, t => t = .cfWpresc
  | .cfWpresc, t => t = .wsLeave
  | .wsLeave, t => t = .wsWpon
  | .wsWpon, t => t = .idle
  | .gcRd, t => t = .idle
  | .scPoll, t => t = .scWpoff || t = .scPoll || t = .idle
  | .scWpoff, t => t = .scWr
  | .scWr, t => t = .wsWpon
  | .cfRctrl, t => t = .cfRpresc
  | .cfRpresc, t => t = .idle || t = .wsWpoff

/-- Which accesses each transaction makes (10_state.md R46). -/
def mayAccess : Transaction → Access → Bool
  | .gettime, .rd i _ => i = .time || i = .date || i = .subsec
  | .gettime, .wr _ _ => false
  | .settime, .rd i _ => i = .status
  | .settime, .wr i _ => i = .time || i = .date || i = .initctl || i = .wpctl
  | .getcal, .rd i _ => i = .cal
  | .getcal, .wr _ _ => false
  | .setcal, .rd i _ => i = .status
  | .setcal, .wr i _ => i = .cal || i = .wpctl
  | .config, .rd i _ => i = .status || i = .ctrl || i = .presc
  | .config, .wr i _ => i = .initctl || i = .ctrl || i = .presc || i = .wpctl

/-! ### Invariants -/

/-- The lines of R33, word for word. -/
structure R33 (s : State) : Prop where
  lock_idle : s.lock = false ↔ s.ts = .idle
  wu_lock : s.wu = true → s.lock = true
  ims_wu : s.ims ≠ .normal → s.wu = true
  entering : s.ims = .enteringInit ↔ s.ts = .wsPoll
  init : s.ims = .init ↔ (s.ts = .stWdate ∨ s.ts = .stWtime ∨ s.ts = .cfWctrl ∨ s.ts = .cfWpresc)
  leaving : s.ims = .leavingInit ↔ s.ts = .wsLeave
  idle : s.ts = .idle → s.wu = false ∧ s.ims = .normal

/-- `WU` in each state of `TS` (10_state.md R26). -/
def TState.unlocked : TState → Bool
  | .wsReq | .wsPoll | .stWdate | .stWtime | .cfWctrl | .cfWpresc | .wsLeave | .wsWpon | .scWr => true
  | _ => false

/-- `IMS` in each state of `TS` (42_init_mode.md R150). -/
def TState.initMode : TState → InitMode
  | .wsPoll => .enteringInit
  | .stWdate | .stWtime | .cfWctrl | .cfWpresc => .init
  | .wsLeave => .leavingInit
  | _ => .normal

/-- Which transactions pass through a state of `TS` (10_state.md R24). -/
def TState.of : TState → Transaction → Bool
  | .idle, _ => true
  | .gtD1, t | .gtT1, t | .gtSs, t | .gtT2, t | .gtD2, t => t = .gettime
  | .wsWpoff, t | .wsReq, t | .wsPoll, t | .wsLeave, t => t = .settime || t = .config
  | .stWdate, t | .stWtime, t => t = .settime
  | .cfWctrl, t | .cfWpresc, t | .cfRctrl, t | .cfRpresc, t => t = .config
  | .wsWpon, t => t = .settime || t = .config || t = .setcal
  | .gcRd, t => t = .getcal
  | .scPoll, t | .scWpoff, t | .scWr, t => t = .setcal

/-- The sequencing registers agree with `TS`: what makes R33 hold. -/
structure SequencingInv (s : State) : Prop where
  lock : s.lock = !decide (s.ts = .idle)
  wu : s.wu = s.ts.unlocked
  ims : s.ims = s.ts.initMode
  opl : s.ts.of s.opl = true
  err : s.err = .ok ∨ (s.err = .timeout ∧ (s.ts = .idle ∨ s.ts = .wsLeave ∨ s.ts = .wsWpon))

/-- The states between the init request and its withdrawal. -/
def TState.requested : TState → Bool
  | .wsPoll | .stWdate | .stWtime | .cfWctrl | .cfWpresc | .wsLeave => true
  | _ => false

/-- The body states of the write scope (R151). -/
def TState.body : TState → Bool
  | .stWdate | .stWtime | .cfWctrl | .cfWpresc => true
  | _ => false

/-- The counter is where the scope needs it (R158 a). -/
structure ScopeInv (s : State) : Prop where
  seq : SequencingInv s
  unprotected : s.wu = true → s.counter.wpen = false
  requested : s.ts.requested = true → s.counter.initReq = true
  active : s.ts.body = true → s.counter.initActive = true

/-- The counter holds the target configuration (45_config_sequencer.md R226 b). -/
def TargetHeld (s : State) : Prop :=
  fmtBit s.counter.ctrl = targetFmt ∧ prescS s.counter.presc = s.cfg.predivS ∧
    prescA s.counter.presc = s.cfg.predivA

/-- R226 (b), (c) as an invariant: once configured, the counter holds the target. The other fields are what a
CONFIG in flight has done so far. -/
structure ConfiguredInv (s : State) : Prop where
  cfg_wf : s.cfg.wf = true
  scope : ScopeInv s
  held : s.configured = true → TargetHeld s
  fresh : s.ts ≠ .idle → (s.opl = .config ↔ s.configured = false)
  latched : s.ts = .cfRpresc → s.cfFmt = fmtBit s.counter.ctrl
  format : s.ts = .cfWpresc → fmtBit s.counter.ctrl = targetFmt
  written : (s.ts = .wsLeave ∨ s.ts = .wsWpon) → s.opl = .config → s.err = .ok → TargetHeld s

/-- One mailbox a requester, and none for the owner of a transaction in flight (10_state.md R34, R251). -/
structure MailboxInv (s : State) : Prop where
  ports : s.resp.length = s.cfg.nreq
  owner : s.lock = true → s.owner < s.cfg.nreq
  pending : s.lock = true → s.mailbox s.owner = none

end Sys2Proof.Machine
end

