-- ==== Sys2Proof/Certificates/Slice0/Obligations.lean ====
section
/-! DEFINITION. The statements for the provers, each from a numbered rule of spec/ or derived from several. -/

open Sys2Proof Sys2Proof.Machine

/-! ### Encoding (30_encoding.md) -/

/-- No bit of an encoding is dropped: the packet of a well-formed command decodes to it (R94, R97, R103). -/
def Obligations.DecodeInvertsEncode : Prop :=
  ∀ i : Instr, i.wf = true → decode (encode i) = .ok i

/-- Every packet the decoder accepts is the packet of the well-formed command it gives. -/
def Obligations.EncodeInvertsDecode : Prop :=
  ∀ (p : Packet) (i : Instr), decode p = .ok i → i.wf = true ∧ encode i = p

/-- Packets written out from the spec's encodings decode to the commands they stand for (R97, R103). -/
def Obligations.SampleWordsDecode : Prop :=
  decode ⟨0x10000000#32, []⟩ = .ok .gettime ∧
  decode ⟨0x20000000#32, [0xFFFF0F1F#32, 0xFF1F3F3F#32]⟩ = .ok (.settime (-1) 15 31 (-1) 31 63 63) ∧
  decode ⟨0x40000000#32, [0xFFFE7960#32]⟩ = .ok (.setcal (-100000)) ∧
  decode ⟨0x50000000#32, []⟩ = .ok .config ∧
  decode ⟨0x8000003B#32, []⟩ = .ok (.tobcd 59) ∧
  decode ⟨0xB000FE01#32, []⟩ = .ok (.pulses2ppb (-511)) ∧
  decode ⟨0xD000819C#32, []⟩ = .ok (.caldec true 412)

/-- R97: a header selects the row whose mask and match it meets, and that is R94's reading of its fields. -/
def Obligations.HeaderMeetsMaskIffFieldsAgree : Prop :=
  ∀ (op : Op) (w : Word),
    w &&& op.mask = op.pattern ↔ bits w 31 28 = op.code ∧ mustBeZeroHolds op ⟨w, []⟩ = true

/-- The byte view: a packet's bytes decode as its words do. Within a word the bytes are little-endian (20_memory.md R63);
that the words follow one another first word first is the model's choice, log entry 16 (DEDUCED). -/
def Obligations.BytesDecodeAsWords : Prop :=
  ∀ p : Packet, decodeBytes (p.words.flatMap wordBytes) = decode p

/-! ### The agents' steps -/

/-- The issue step runs the decoded command (R92), its event taken and its requester noted. The schedule is the
model's choice, log entry 1. -/
def Obligations.StepRunsDecodedCommand : Prop :=
  ∀ (s : State) (r : Nat) (p : Packet) (i : Instr),
    MayIssue s r p → decode p = .ok i → step s = exec i { useEvent s with issuer := r }

/-- R98: a malformed command is answered `InvalidArgument` with its opcode field echoed, and nothing else happens but
that its event is taken (log entry 1). -/
def Obligations.MalformedPacketAnswered : Prop :=
  ∀ (s : State) (r : Nat) (p : Packet), MayIssue s r p → IsMalformed p →
      step s = .next { useEvent s with
        issuer := r
        resp := s.resp.set r (some [BitVec.ofNat 32 (bits p.cw0 31 28 * 2 ^ 28 + 1)]) }

/-- The steps of the other agents (00_scope.md R11): the engine's, the counter's and the platform's; and the owner of
the transaction in flight has no issue step (10_state.md R34): its event stays next and the engine moves. Events come
from `inputs`, then from `cycle` again and again, and without it they are free, a requester's number taken modulo `NREQ`.
The schedule is the model's choice, log entries 1 and 2. -/
def Obligations.ScheduleMovesAgents : Prop :=
  ∀ s : State,
    (nextEvent s = .advance → step s = advance (useEvent s)) ∧
    (∀ m, nextEvent s = .counter m → step s = .next { useEvent s with counter := counterStep m s.counter }) ∧
    (∀ b, nextEvent s = .clkReady b → step s = .next { useEvent s with clkReady := b }) ∧
    (∀ r p, nextEvent s = .issue r p → r < s.cfg.nreq → s.lock = true → s.owner = r →
      step s = advance s ∧ ∀ t, step s = .next t → nextEvent t = .issue r p) ∧
    (∀ e rest, s.inputs = e :: rest → nextEvent s = e ∧ useEvent s = { s with inputs := rest }) ∧
    (∀ e rest, s.inputs = [] → s.cycle = e :: rest → nextEvent s = e ∧ useEvent s = { s with inputs := rest }) ∧
    (s.inputs = [] → s.cycle = [] →
      useEvent s = { s with eventCtr := s.eventCtr + 1 } ∧
      nextEvent s =
        match Config.freeEvent s.eventCtr with
        | .issue r p => .issue (r % s.cfg.nreq) p
        | e => e)

/-- R68, R70, R71: a counter step leaves the stable registers, raises `INIT_ACTIVE` only under a request and drops
it only without one, and raises `CAL_PENDING` only after an accepted write of `CAL` (log entry 10).
R72: while `INIT_ACTIVE = 1` the calendar does not advance, and when it falls the subsecond counter restarts from
`PRESC.PREDIV_S`, in the model in that same step (log entry 9); the reserved bits 31:16 stay open (log entry 27). -/
def Obligations.CounterKeepsContract : Prop :=
  ∀ (m : CounterMove) (c : Counter),
    (∀ i, i = CReg.initctl ∨ i = CReg.ctrl ∨ i = CReg.presc ∨ i = CReg.cal ∨ i = CReg.wpctl →
      (counterStep m c).read i = c.read i) ∧
    (c.initActive = false → (counterStep m c).initActive = true → c.initReq = true) ∧
    (c.initActive = true → (counterStep m c).initActive = false → c.initReq = false) ∧
    (c.calPending = false → (counterStep m c).calPending = true → c.calWritten = true) ∧
    (c.initActive = true →
      (counterStep m c).time = c.time ∧ (counterStep m c).date = c.date ∧
      ((counterStep m c).initActive = false → bits (counterStep m c).subsec 15 0 = prescS c.presc))

/-- R67, R70 to R72: whatever the contract allows a counter step to do, some counter step does. The contract is read as
the model reads it: the calendar stands still in init mode and `SUBSEC[15:0]` restarts in the step in which the flag
falls (log entry 9, DEDUCED), its reserved bits open (log entry 27, DEDUCED), and `CAL_PENDING` may rise at any step
after an accepted write of `CAL`, recorded in `calWritten` (log entry 10, DEDUCED). -/
def Obligations.CounterMayDoWhatContractAllows : Prop :=
  ∀ c d : Counter,
    d.initctl = c.initctl → d.ctrl = c.ctrl → d.presc = c.presc → d.cal = c.cal → d.wpctl = c.wpctl →
    d.calWritten = c.calWritten →
    (c.initActive = false → d.initActive = true → c.initReq = true) →
    (c.initActive = true → d.initActive = false → c.initReq = false) →
    (c.calPending = false → d.calPending = true → c.calWritten = true) →
    (c.initActive = true → d.time = c.time ∧ d.date = c.date) →
    (c.initActive = true → d.initActive = false → bits d.subsec 15 0 = prescS c.presc) →
    ∃ m, counterStep m c = d

/-- R69: which writes the counter stores. What it does with the others is the model's reading of 93 U6, log entry 11. -/
def Obligations.WritesStoredWhereAccepted : Prop :=
  ∀ (c : Counter) (i : CReg) (v : Word),
    (∀ j, j ≠ i → (c.write i v).read j = c.read j) ∧
    (i = .wpctl ∨ i = .initctl → (c.write i v).read i = v) ∧
    (i = .cal → (c.write i v).read i = if c.wpen then c.read i else v) ∧
    (i = .time ∨ i = .date ∨ i = .ctrl ∨ i = .presc →
      (c.write i v).read i = if !c.wpen && c.initActive then v else c.read i) ∧
    (i = .subsec ∨ i = .status → c.write i v = c)

/-! ### The function units -/

/-- 40_bcd_codec.md R124: the codec's laws. -/
def Obligations.BcdCodecLaws : Prop :=
  (∀ x, x ≤ 99 → fromBCD (toBCD x) = x ∧ validBCD (toBCD x) = true) ∧
  (∀ b, validBCD b = true → fromBCD b ≤ 99 ∧ toBCD (fromBCD b) = b) ∧
  (∀ x y, x < y → y ≤ 99 → toBCD x < toBCD y) ∧
  (∀ x, (x ≤ 63 → toBCD x ≤ 0x63) ∧ (x ≤ 31 → toBCD x ≤ 0x31) ∧ (x ≤ 15 → toBCD x ≤ 0x15))

/-- 00_scope.md R9: `rdiv` is R9's two quotients, which are the nearest integer, a tie going away from zero. -/
def Obligations.RdivNearestTiesAwayFromZero : Prop :=
  ∀ (n : Int) (d : Nat), 0 < d →
    (0 ≤ n → rdiv n d = (2 * n + d) / (2 * d)) ∧
    (n < 0 → rdiv n d = -((2 * -n + d) / (2 * d))) ∧
    2 * |n - rdiv n d * d| ≤ d ∧
    (2 * |n - rdiv n d * d| = d → |n| < |rdiv n d * d|) ∧
    rdiv (-n) d = -rdiv n d

/-- 41_calibration_converter.md R133, R139: the bounds are the conversions of 512 and -511 pulses, every accepted ppb
converts to a pulse count `CAL` can hold, some rejected ones would too, and the round trips. -/
def Obligations.CalibrationRoundTrip : Prop :=
  maxPpb = pulsesToPpb 512 ∧ maxPpb = 488281 ∧ minPpb = pulsesToPpb (-511) ∧ minPpb = -487328 ∧
  ppbToPulses maxPpb = 512 ∧ ppbToPulses minPpb = -511 ∧
  (∀ ppb : Int, 487805 ≤ ppb → ppb ≤ 488758 → ppbToPulses ppb = 512) ∧
  (∀ ppb : Int, -487804 ≤ ppb → ppb ≤ -486851 → ppbToPulses ppb = -511) ∧
  (∀ ppb : Int, ppbToPulses ppb = -512 → ppb ≤ -487805) ∧ ppbToPulses (-487805) = -512 ∧
  (∀ ppb : Int, -487328 ≤ ppb → ppb ≤ 488281 →
    -511 ≤ ppbToPulses ppb ∧ ppbToPulses ppb ≤ 512 ∧ |pulsesToPpb (ppbToPulses ppb) - ppb| ≤ 477) ∧
  (pulsesToPpb (ppbToPulses (-486851)) - -486851 = -477) ∧
  (∀ p : Int, -511 ≤ p → p ≤ 512 → ppbToPulses (pulsesToPpb p) = p)

/-- R132: the fields `calEncode` gives, the word's other bits 0, and `calEncode` and `calDecode` are inverse
bijections between -511..512 and the field pairs. -/
def Obligations.CalFieldsBijective : Prop :=
  (∀ p : Int, -511 ≤ p → p ≤ 512 →
    calDecode (calpBit (calEncode p)) (calmField (calEncode p)) = p ∧
    calpBit (calEncode p) = decide (0 < p) ∧
    (calmField (calEncode p) : Int) = (if 0 < p then 512 - p else -p) ∧
    bits (calEncode p) 31 16 = 0 ∧ bits (calEncode p) 14 9 = 0) ∧
  (∀ (flag : Bool) (m : Nat), m ≤ 511 →
    calDecode flag m = (if flag then 512 else 0) - m ∧
    -511 ≤ calDecode flag m ∧ calDecode flag m ≤ 512 ∧
    calpBit (calEncode (calDecode flag m)) = flag ∧ calmField (calEncode (calDecode flag m)) = m)

/-- 43_time_transactions.md R182: the words a SETTIME writes, field by field, reserved bits and `PM` 0. -/
def Obligations.SettimeWordFields : Prop :=
  ∀ (year : Int) (month day : Nat) (wday : Int) (hour minute second : Nat),
    (Instr.settime year month day wday hour minute second).wf = true →
    0 ≤ year → year ≤ 99 → 0 ≤ wday → wday ≤ 6 →
    bits (dateWord year month day wday) 31 24 = 0 ∧
    bits (dateWord year month day wday) 23 16 = toBCD year.toNat ∧
    bits (dateWord year month day wday) 15 13 = (if wday = 0 then 7 else wday.toNat) ∧
    bits (dateWord year month day wday) 12 8 = toBCD month ∧
    bits (dateWord year month day wday) 7 6 = 0 ∧
    bits (dateWord year month day wday) 5 0 = toBCD day ∧
    bits (timeWord hour minute second) 31 22 = 0 ∧
    bits (timeWord hour minute second) 21 16 = toBCD hour ∧
    bits (timeWord hour minute second) 15 15 = 0 ∧
    bits (timeWord hour minute second) 14 8 = toBCD minute ∧
    bits (timeWord hour minute second) 7 7 = 0 ∧
    bits (timeWord hour minute second) 6 0 = toBCD second

/-- R176: the translation, field by field of the response words (30_encoding.md R96), and the range of `nsec`.
It holds for all register bits: where a nibble is above 9, input the source calls undefined, ten times the high digit
plus the low is the spec's own reading (R121, 93 U1) and the model's, log entry 8 (DEDUCED, unsafe). A claim about
calendar fields needs valid BCD as a premise. -/
def Obligations.TranslationFields : Prop :=
  ∀ (sd st : Word),
    bits (translateDate sd) 31 16 = 10 * bits sd 23 20 + bits sd 19 16 ∧
    bits (translateDate sd) 15 8 = 10 * bits sd 12 12 + bits sd 11 8 ∧
    bits (translateDate sd) 7 0 = 10 * bits sd 5 4 + bits sd 3 0 ∧
    bits (translateTime sd st) 31 24 = (if bits sd 15 13 = 7 then 0 else bits sd 15 13) ∧
    bits (translateTime sd st) 23 16 = 10 * bits st 21 20 + bits st 19 16 ∧
    bits (translateTime sd st) 15 8 = 10 * bits st 14 12 + bits st 11 8 ∧
    bits (translateTime sd st) 7 0 = 10 * bits st 6 4 + bits st 3 0 ∧
    (∀ predivS ss : Nat, predivS ≤ 32767 → ss ≤ predivS →
      0 ≤ nanoseconds predivS ss ∧ nanoseconds predivS ss ≤ 999999999 ∧
      (ss = predivS → nanoseconds predivS ss = 0))

/-- R186, R101: the fields of a time survive the write and the read; weekday 0 comes back 0. -/
def Obligations.TimeWordsRoundTrip : Prop :=
  ∀ (year : Int) (month day : Nat) (wday : Int) (hour minute second : Nat),
    (Instr.settime year month day wday hour minute second).wf = true →
    0 ≤ year → year ≤ 99 → 0 ≤ wday → wday ≤ 6 →
    (encode (.settime year month day wday hour minute second)).more =
      [translateDate (dateWord year month day wday),
       translateTime (dateWord year month day wday) (timeWord hour minute second)]

/-! ### The pure operations, each with its packet and its whole effect -/

/-- 40_bcd_codec.md R122. -/
def Obligations.TobcdAnswers : Prop :=
  (∀ x : Nat, x ≤ 255 → decode ⟨BitVec.ofNat 32 (0x80000000 + x), []⟩ = .ok (.tobcd x)) ∧
  ∀ (x : Nat) (s : State),
    exec (.tobcd x) s = .next { s with
      resp := s.resp.set s.issuer (some
        (if x ≤ 99 then [0x80000000#32, BitVec.ofNat 32 (x / 10 * 2 ^ 4 + x % 10)] else [0x80000001#32])) }

/-- R123: every byte is answered, its digits not validated. -/
def Obligations.FrombcdAnswers : Prop :=
  (∀ b : Byte, decode ⟨BitVec.ofNat 32 (0x90000000 + b.toNat), []⟩ = .ok (.frombcd b)) ∧
  ∀ (b : Byte) (s : State),
    exec (.frombcd b) s = .next { s with
      resp := s.resp.set s.issuer (some
        [0x90000000#32, BitVec.ofNat 32 (10 * (b.toNat / 2 ^ 4) + b.toNat % 2 ^ 4)]) }

/-- 41_calibration_converter.md R135: outside the range, or without the capability, it is rejected, never clamped. -/
def Obligations.Ppb2pulsesAnswers : Prop :=
  (∀ w : Word, decode ⟨0xA0000000#32, [w]⟩ = .ok (.ppb2pulses w.toInt)) ∧
  ∀ (ppb : Int) (s : State),
    exec (.ppb2pulses ppb) s = .next { s with
      resp := s.resp.set s.issuer (some
        (if s.cfg.hasSmoothCal = true ∧ -487328 ≤ ppb ∧ ppb ≤ 488281 then
          [0xA0000000#32, BitVec.ofInt 32 (rdiv (ppb * 2048) 1953125)]
        else [0xA0000001#32])) }

/-- R136: no range check. -/
def Obligations.Pulses2ppbAnswers : Prop :=
  (∀ v : BitVec 16, decode ⟨BitVec.ofNat 32 (0xB0000000 + v.toNat), []⟩ = .ok (.pulses2ppb v.toInt)) ∧
  ∀ (pulses : Int) (s : State),
    exec (.pulses2ppb pulses) s = .next { s with
      resp := s.resp.set s.issuer (some
        (if s.cfg.hasSmoothCal = true then [0xB0000000#32, BitVec.ofInt 32 (rdiv (pulses * 1953125) 2048)]
        else [0xB0000001#32])) }

/-- R137. -/
def Obligations.CalencAnswers : Prop :=
  (∀ v : BitVec 16, decode ⟨BitVec.ofNat 32 (0xC0000000 + v.toNat), []⟩ = .ok (.calenc v.toInt)) ∧
  ∀ (pulses : Int) (s : State),
    exec (.calenc pulses) s = .next { s with
      resp := s.resp.set s.issuer (some
        (if s.cfg.hasSmoothCal = true ∧ -511 ≤ pulses ∧ pulses ≤ 512 then
          [0xC0000000#32,
           if 0 < pulses then BitVec.ofInt 32 (2 ^ 15 + (512 - pulses)) else BitVec.ofInt 32 (-pulses)]
        else [0xC0000001#32])) }

/-- R138. -/
def Obligations.CaldecAnswers : Prop :=
  (∀ (flag : Bool) (magnitude : Nat), magnitude ≤ 511 →
    decode ⟨BitVec.ofNat 32 (0xD0000000 + flag.toNat * 2 ^ 15 + magnitude), []⟩ = .ok (.caldec flag magnitude)) ∧
  ∀ (flag : Bool) (magnitude : Nat) (s : State),
    exec (.caldec flag magnitude) s = .next { s with
      resp := s.resp.set s.issuer (some
        (if s.cfg.hasSmoothCal = true then
          [0xD0000000#32, BitVec.ofInt 32 ((if flag then 512 else 0) - (magnitude : Int))]
        else [0xD0000001#32])) }

/-! ### The transactions' issue steps -/

/-- 43_time_transactions.md R170, 30_encoding.md R93: an accepted GETTIME. -/
def Obligations.GettimeAccepted : Prop :=
  ∀ s : State, s.configured = true → s.lock = false →
    exec .gettime s = .next { s with
      resp := s.resp.set s.issuer none, lock := true, owner := s.issuer, opl := .gettime, err := .ok
      ts := .gtD1
      rty := if s.cfg.readRetryCap.isSome then 0 else s.rty }

/-- R181, R93: an accepted SETTIME latches its two words before any access. -/
def Obligations.SettimeAccepted : Prop :=
  ∀ (s : State) (year : Int) (month day : Nat) (wday : Int) (hour minute second : Nat),
    s.configured = true → s.lock = false → 0 ≤ year → year ≤ 99 → 0 ≤ wday → wday ≤ 6 →
    exec (.settime year month day wday hour minute second) s = .next { s with
      resp := s.resp.set s.issuer none, lock := true, owner := s.issuer, opl := .settime, err := .ok
      ts := .wsWpoff
      argDate := dateWord year month day wday
      argTime := timeWord hour minute second }

/-- 44_calibration_transactions.md R201, R93: an accepted GETCAL. -/
def Obligations.GetcalAccepted : Prop :=
  ∀ s : State, s.cfg.hasSmoothCal = true → s.configured = true → s.lock = false →
    exec .getcal s = .next { s with
      resp := s.resp.set s.issuer none, lock := true, owner := s.issuer, opl := .getcal, err := .ok
      ts := .gcRd }

/-- R204, R205, R93: an accepted SETCAL latches its word, which `CAL` can hold, and loads its poll budget, however
that quotient rounds (log entry 28). -/
def Obligations.SetcalAccepted : Prop :=
  ∀ (s : State) (ppb : Int), s.cfg.hasSmoothCal = true → -487328 ≤ ppb → ppb ≤ 488281 →
    s.configured = true → s.lock = false →
    -511 ≤ ppbToPulses ppb ∧ ppbToPulses ppb ≤ 512 ∧
    exec (.setcal ppb) s = .next { s with
      resp := s.resp.set s.issuer none, lock := true, owner := s.issuer, opl := .setcal, err := .ok
      ts := .scPoll
      argCal := calEncode (ppbToPulses ppb)
      tmo := s.cfg.calPollBudget }

/-- 45_config_sequencer.md R220, R93: an accepted CONFIG. -/
def Obligations.ConfigAccepted : Prop :=
  ∀ s : State, s.configured = false → s.lock = false → s.clkReady = true →
    exec .config s = .next { s with
      resp := s.resp.set s.issuer none, lock := true, owner := s.issuer, opl := .config, err := .ok
      ts := .cfRctrl }

/-- 30_encoding.md R98: the argument errors of the transactions, whatever the state. -/
def Obligations.TransactionArgumentErrors : Prop :=
  (∀ (s : State) (year : Int) (month day : Nat) (wday : Int) (hour minute second : Nat),
    year < 0 ∨ 99 < year ∨ wday < 0 ∨ 6 < wday →
    exec (.settime year month day wday hour minute second) s =
      .next { s with resp := s.resp.set s.issuer (some [0x20000001#32]) }) ∧
  (∀ s : State, s.cfg.hasSmoothCal = false →
    exec .getcal s = .next { s with resp := s.resp.set s.issuer (some [0x30000001#32]) }) ∧
  (∀ (s : State) (ppb : Int), s.cfg.hasSmoothCal = false ∨ ppb < -487328 ∨ 488281 < ppb →
    exec (.setcal ppb) s = .next { s with resp := s.resp.set s.issuer (some [0x40000001#32]) })

/-- 30_encoding.md R93 checks 3 and 4, 60_exceptions.md R242, R244 (b): before CONFIG the four other transactions are
answered `DeviceNotReady`, and while the lock is held `Busy`; nothing but the mailbox changes. -/
def Obligations.TransactionsTurnedAway : Prop :=
  ∀ (s : State) (i : Instr) (h : Word),
    (i = .gettime ∧ h = 0x10000000#32) ∨
    (∃ year month day wday hour minute second,
      i = .settime year month day wday hour minute second ∧ 0 ≤ year ∧ year ≤ 99 ∧ 0 ≤ wday ∧ wday ≤ 6 ∧
      h = 0x20000000#32) ∨
    (i = .getcal ∧ s.cfg.hasSmoothCal = true ∧ h = 0x30000000#32) ∨
    (∃ ppb, i = .setcal ppb ∧ s.cfg.hasSmoothCal = true ∧ -487328 ≤ ppb ∧ ppb ≤ 488281 ∧ h = 0x40000000#32) →
    (s.configured = false →
      exec i s = .next { s with resp := s.resp.set s.issuer (some [h + 4#32]) }) ∧
    (s.configured = true → s.lock = true →
      exec i s = .next { s with resp := s.resp.set s.issuer (some [h + 2#32]) })

/-- R249, R93: CONFIG turned away, in the order of the checks. -/
def Obligations.ConfigTurnedAway : Prop :=
  ∀ s : State,
    (s.configured = true →
      exec .config s = .next { s with resp := s.resp.set s.issuer (some [0x50000001#32]) }) ∧
    (s.configured = false → s.lock = true →
      exec .config s = .next { s with resp := s.resp.set s.issuer (some [0x50000002#32]) }) ∧
    (s.configured = false → s.lock = false → s.clkReady = false →
      exec .config s = .next { s with resp := s.resp.set s.issuer (some [0x50000004#32]) })

/-- 30_encoding.md R92: a pure operation always answers, and touches only its requester's mailbox. -/
def Obligations.PureOpsTouchOnlyMailbox : Prop :=
  ∀ (i : Instr) (s : State),
    i.op = .tobcd ∨ i.op = .frombcd ∨ i.op = .ppb2pulses ∨ i.op = .pulses2ppb ∨ i.op = .calenc ∨ i.op = .caldec →
    ∃ w ws, exec i s = .next { s with resp := s.resp.set s.issuer (some (w :: ws)) }

/-- 43_time_transactions.md R185 (b) for every command: an issue step completes, makes no access, and leaves the
counter, the other mailboxes, `CONFIGURED`, `WU`, `IMS` and the snapshot as they were. -/
def Obligations.IssueMakesNoAccess : Prop :=
  ∀ (i : Instr) (s : State), ∃ t, exec i s = .next t ∧
    t.hist = s.hist ∧ t.counter = s.counter ∧ (∀ r, r ≠ s.issuer → t.mailbox r = s.mailbox r) ∧
    t.configured = s.configured ∧ t.wu = s.wu ∧ t.ims = s.ims ∧ t.sd = s.sd ∧ t.st = s.st ∧ t.ss = s.ss ∧
    t.cfFmt = s.cfFmt ∧ t.cfg = s.cfg ∧ t.clkReady = s.clkReady ∧ t.inputs = s.inputs ∧ t.cycle = s.cycle ∧
    t.eventCtr = s.eventCtr ∧ t.issuer = s.issuer ∧ t.freeCtr = s.freeCtr

/-! ### The engine's states -/

/-- 43_time_transactions.md R171 to R175 with no cap: the reads; agreement goes on, a mismatch retries at its own level
and keeps the rest. -/
def Obligations.GettimeReadsComparesRetries : Prop :=
  ∀ s : State,
    (s.ts = .gtD1 → advance s = .next { s with
      sd := s.counter.date, ts := .gtT1, hist := s.hist ++ [.rd .date s.counter.date] }) ∧
    (s.ts = .gtT1 → advance s = .next { s with
      st := s.counter.time, ts := .gtSs, hist := s.hist ++ [.rd .time s.counter.time] }) ∧
    (s.ts = .gtSs → advance s = .next { s with
      ss := BitVec.ofNat 16 (bits s.counter.subsec 15 0), ts := .gtT2
      hist := s.hist ++ [.rd .subsec s.counter.subsec] }) ∧
    (s.ts = .gtT2 → s.counter.time = s.st → advance s = .next { s with
      ts := .gtD2, hist := s.hist ++ [.rd .time s.counter.time] }) ∧
    (s.ts = .gtT2 → s.counter.time ≠ s.st → s.cfg.readRetryCap = none → advance s = .next { s with
      ts := .gtT1, hist := s.hist ++ [.rd .time s.counter.time] }) ∧
    (s.ts = .gtD2 → s.counter.date ≠ s.sd → s.cfg.readRetryCap = none → advance s = .next { s with
      ts := .gtD1, hist := s.hist ++ [.rd .date s.counter.date] })

/-- R175, R176, 60_exceptions.md R247: the successful end of GETTIME. -/
def Obligations.GettimeFinishes : Prop :=
  ∀ s : State, s.ts = .gtD2 → s.opl = .gettime → s.counter.date = s.sd → s.ss.toNat ≤ s.cfg.predivS →
    advance s = .next { s with
      hist := s.hist ++ [.rd .date s.counter.date], lock := false, ts := .idle
      resp := s.resp.set s.owner (some
        [0x10000000#32, translateDate s.sd, translateTime s.sd s.st,
         BitVec.ofInt 32 (rdiv (((s.cfg.predivS : Int) - s.ss.toNat) * 1000000000) (s.cfg.predivS + 1)),
         0xFFFFFFFF#32]) }

/-- R177: with `SS > PREDIV_S` the transaction still finishes `OK`, every field but `nsec` is as R176 gives.
`freeCtr` is the model's own (log entry 7). -/
def Obligations.SubsecondAbovePrescaler : Prop :=
  ∀ s : State, s.ts = .gtD2 → s.opl = .gettime → s.counter.date = s.sd → s.cfg.predivS < s.ss.toNat →
    ∃ nsec : Word, advance s = .next { s with
      hist := s.hist ++ [.rd .date s.counter.date], lock := false, ts := .idle
      resp := s.resp.set s.owner (some
        [0x10000000#32, translateDate s.sd, translateTime s.sd s.st, nsec, 0xFFFFFFFF#32])
      freeCtr := s.freeCtr + 1 }

/-- R179: without a cap a mismatch retries; with a cap `N` it counts in `RTY`, and the count above `N` ends the command
with `InternalConsistency` instead of the retry. The count does not wrap (log entry 14). -/
def Obligations.RetryCapEndsGettime : Prop :=
  ∀ (s : State) (v : Word) (i : CReg) (retry : TState), s.opl = .gettime →
    (s.ts = .gtT2 ∧ i = .time ∧ v = s.counter.time ∧ v ≠ s.st ∧ retry = .gtT1) ∨
      (s.ts = .gtD2 ∧ i = .date ∧ v = s.counter.date ∧ v ≠ s.sd ∧ retry = .gtD1) →
    advance s = .next
      (match s.cfg.readRetryCap with
      | none => { s with hist := s.hist ++ [.rd i v], ts := retry }
      | some cap =>
        if cap < s.rty + 1 then
          { s with
            hist := s.hist ++ [.rd i v], rty := s.rty + 1, lock := false, ts := .idle
            resp := s.resp.set s.owner (some [0x10000005#32]) }
        else { s with hist := s.hist ++ [.rd i v], rty := s.rty + 1, ts := retry })

/-- 42_init_mode.md R152 to R156: the write scope around its body. The flag is tested before the budget, which is
`INIT_POLL_BUDGET` however that quotient rounds (log entry 28). -/
def Obligations.ScopeStates : Prop :=
  ∀ s : State,
    (s.ts = .wsWpoff → advance s = .next { s with
      counter := { s.counter with wpctl := 0#32 }, hist := s.hist ++ [.wr .wpctl 0#32]
      wu := true, ts := .wsReq }) ∧
    (s.ts = .wsReq → advance s = .next { s with
      counter := { s.counter with initctl := 1#32 }, hist := s.hist ++ [.wr .initctl 1#32]
      ims := .enteringInit, tmo := s.cfg.initPollBudget, ts := .wsPoll }) ∧
    (s.ts = .wsLeave → advance s = .next { s with
      counter := { s.counter with initctl := 0#32 }, hist := s.hist ++ [.wr .initctl 0#32]
      ims := .normal, ts := .wsWpon }) ∧
    (s.ts = .wsPoll → s.counter.initActive = true → s.opl = .settime → advance s = .next { s with
      hist := s.hist ++ [.rd .status s.counter.status], ims := .init, ts := .stWdate }) ∧
    (s.ts = .wsPoll → s.counter.initActive = true → s.opl = .config → advance s = .next { s with
      hist := s.hist ++ [.rd .status s.counter.status], ims := .init, ts := .cfWctrl }) ∧
    (s.ts = .wsPoll → s.counter.initActive = false → 0 < s.tmo → advance s = .next { s with
      hist := s.hist ++ [.rd .status s.counter.status], tmo := s.tmo - 1 }) ∧
    (s.ts = .wsPoll → s.counter.initActive = false → s.tmo = 0 → advance s = .next { s with
      hist := s.hist ++ [.rd .status s.counter.status], err := .timeout, ims := .leavingInit
      ts := .wsLeave })

/-- R157, 60_exceptions.md R247: write protection back on, `CONFIGURED` on a successful CONFIG, and the response. -/
def Obligations.ScopeFinishes : Prop :=
  ∀ (s : State) (h : Word), s.ts = .wsWpon →
    (s.opl = .settime ∧ h = 0x20000000#32) ∨ (s.opl = .setcal ∧ h = 0x40000000#32) ∨
      (s.opl = .config ∧ h = 0x50000000#32) →
    (s.err = .ok → advance s = .next { s with
      counter := { s.counter with wpctl := 1#32 }, hist := s.hist ++ [.wr .wpctl 1#32]
      wu := false, configured := if s.opl = .config then true else s.configured
      lock := false, ts := .idle, resp := s.resp.set s.owner (some [h]) }) ∧
    (s.err = .timeout → advance s = .next { s with
      counter := { s.counter with wpctl := 1#32 }, hist := s.hist ++ [.wr .wpctl 1#32]
      wu := false, lock := false, ts := .idle, resp := s.resp.set s.owner (some [h + 3#32]) })

/-- 43_time_transactions.md R183, R184, 45_config_sequencer.md R224, R225, with the counter ready for the write
(20_memory.md R69). -/
def Obligations.BodyStatesWrite : Prop :=
  ∀ s : State, s.counter.wpen = false → s.counter.initActive = true →
    (s.ts = .stWdate → advance s = .next { s with
      counter := { s.counter with date := s.argDate }, hist := s.hist ++ [.wr .date s.argDate]
      ts := .stWtime }) ∧
    (s.ts = .stWtime → advance s = .next { s with
      counter := { s.counter with time := s.argTime }, hist := s.hist ++ [.wr .time s.argTime]
      ims := .leavingInit, ts := .wsLeave }) ∧
    (s.ts = .cfWctrl → advance s = .next { s with
      counter := { s.counter with ctrl := 0#32 }, hist := s.hist ++ [.wr .ctrl 0#32]
      ts := .cfWpresc }) ∧
    (s.ts = .cfWpresc → advance s = .next { s with
      counter := { s.counter with presc := BitVec.ofNat 32 (s.cfg.predivA * 2 ^ 16 + s.cfg.predivS) }
      hist := s.hist ++ [.wr .presc (BitVec.ofNat 32 (s.cfg.predivA * 2 ^ 16 + s.cfg.predivS))]
      ims := .leavingInit, ts := .wsLeave })

/-- 44_calibration_transactions.md R202, R206 to R208: the states of GETCAL and SETCAL. Both fields of `CAL` come from
one access; the write is stored while protection is off (20_memory.md R69). That the stored write also sets the
counter's hidden bit `calWritten` is the model's choice, log entry 10 (DEDUCED). -/
def Obligations.CalibrationStates : Prop :=
  ∀ s : State,
    (s.ts = .gcRd → s.opl = .getcal → advance s = .next { s with
      hist := s.hist ++ [.rd .cal s.counter.cal], lock := false, ts := .idle
      resp := s.resp.set s.owner (some
        [0x30000000#32,
         BitVec.ofInt 32 (rdiv
          (((if bit s.counter.cal 15 then 512 else 0) - (bits s.counter.cal 8 0 : Int)) * 1953125) 2048)]) }) ∧
    (s.ts = .scPoll → s.counter.calPending = false → advance s = .next { s with
      hist := s.hist ++ [.rd .status s.counter.status], ts := .scWpoff }) ∧
    (s.ts = .scPoll → s.counter.calPending = true → 0 < s.tmo → advance s = .next { s with
      hist := s.hist ++ [.rd .status s.counter.status], tmo := s.tmo - 1 }) ∧
    (s.ts = .scPoll → s.counter.calPending = true → s.tmo = 0 → s.opl = .setcal → advance s = .next { s with
      hist := s.hist ++ [.rd .status s.counter.status], lock := false, ts := .idle
      resp := s.resp.set s.owner (some [0x40000003#32]) }) ∧
    (s.ts = .scWpoff → advance s = .next { s with
      counter := { s.counter with wpctl := 0#32 }, hist := s.hist ++ [.wr .wpctl 0#32]
      wu := true, ts := .scWr }) ∧
    (s.ts = .scWr → s.counter.wpen = false → advance s = .next { s with
      counter := { s.counter with cal := s.argCal, calWritten := true }
      hist := s.hist ++ [.wr .cal s.argCal], ts := .wsWpon })

/-- 45_config_sequencer.md R222, R223: CONFIG compares the three named fields, finishes with no write when they all
match, else enters the write scope. -/
def Obligations.ConfigCompares : Prop :=
  ∀ s : State,
    (s.ts = .cfRctrl → advance s = .next { s with
      hist := s.hist ++ [.rd .ctrl s.counter.ctrl], cfFmt := bit s.counter.ctrl 0, ts := .cfRpresc }) ∧
    (s.ts = .cfRpresc → s.opl = .config →
      advance s = .next
        (if s.cfFmt = false ∧ bits s.counter.presc 14 0 = s.cfg.predivS ∧
            bits s.counter.presc 22 16 = s.cfg.predivA then
          { s with
            hist := s.hist ++ [.rd .presc s.counter.presc], configured := true, lock := false, ts := .idle
            resp := s.resp.set s.owner (some [0x50000000#32]) }
        else { s with hist := s.hist ++ [.rd .presc s.counter.presc], ts := .wsWpoff }))

/-- 00_scope.md R11, 20_memory.md R66, 10_state.md R34: what an engine step leaves: at most one access, and the
parameters, the schedule, the operand latches, `OWNER`, `OPL` and every mailbox but the owner's as they were; and
`TS` makes no transition but those of 10_state.md R49 and, in the model, from `IDLE` to itself: R49 has no such row,
it is the model's choice, log entry 3 (DESIGN CHOICE). -/
def Obligations.EngineStepFrame : Prop :=
  ∀ s t : State, advance s = .next t →
    (t.hist = s.hist ∨ ∃ a, t.hist = s.hist ++ [a]) ∧
    (∀ r, r ≠ s.owner → t.mailbox r = s.mailbox r) ∧
    t.cfg = s.cfg ∧ t.clkReady = s.clkReady ∧ t.inputs = s.inputs ∧ t.cycle = s.cycle ∧
    t.eventCtr = s.eventCtr ∧ t.issuer = s.issuer ∧
    t.argDate = s.argDate ∧ t.argTime = s.argTime ∧ t.argCal = s.argCal ∧ t.owner = s.owner ∧ t.opl = s.opl ∧
    s.ts.goesTo t.ts = true

/-- 10_state.md R46: each transaction accesses only its own registers. -/
def Obligations.TransactionsAccessOnlyTheirRegisters : Prop :=
  ∀ (s t : State) (a : Access), SequencingInv s → advance s = .next t → t.hist = s.hist ++ [a] →
    mayAccess s.opl a = true

/-! ### Invariants of every step -/

/-- 42_init_mode.md R158 (a), 10_state.md R33: the sequencing registers agree with `TS`, the scope runs with
protection off and the request standing, its body with `INIT_ACTIVE = 1`; every step of every agent keeps it. -/
def Obligations.StepKeepsScopeInv : Prop :=
  ∀ s t : State, ScopeInv s → step s = .next t → ScopeInv t

/-- 45_config_sequencer.md R226 (b), (c): once configured, the counter holds the target configuration; every step
keeps it. -/
def Obligations.StepKeepsConfiguredInv : Prop :=
  ∀ s t : State, ConfiguredInv s → step s = .next t → ConfiguredInv t

/-- 60_exceptions.md R251: the owner's mailbox stays empty while its transaction runs; every step keeps it. -/
def Obligations.StepKeepsMailboxInv : Prop :=
  ∀ s t : State, MailboxInv s → step s = .next t → MailboxInv t

/-- The invariants hold of a block right after reset, whatever the counter holds, the parameters within their ranges
and the schedule (70_reset_and_hazards.md R280). -/
def Obligations.BootMeetsInvariants : Prop :=
  ∀ (cfg : Config) (c : Counter) (clk : Bool) (inputs cycle : List Event), cfg.wf = true →
    ConfiguredInv (State.boot cfg c clk inputs cycle) ∧ MailboxInv (State.boot cfg c clk inputs cycle)

/-- 10_state.md R48: the values the spec gives for reset. -/
def Obligations.ResetValues : Prop :=
  State.reset.ts = .idle ∧ State.reset.lock = false ∧ State.reset.configured = false ∧
  State.reset.ims = .normal ∧ State.reset.wu = false ∧ State.reset.err = .ok ∧
  (∀ r, State.reset.mailbox r = none) ∧ State.reset.hist = []

/-- 10_state.md R33: its lines hold in every reachable state, whatever the counter held at reset and the agents do. -/
def Obligations.ReachableStatesMeetR33 : Prop :=
  ∀ (cfg : Config) (c : Counter) (clk : Bool) (inputs cycle : List Event) (n : Nat) (t : State),
    runs n (State.boot cfg c clk inputs cycle) = .next t → R33 t

/-- 20_memory.md R69: the engine never makes a write the counter does not accept. The stored register is `Counter.put`'s,
which for `CAL` also sets the hidden bit `calWritten`: the model's choice, log entry 10 (DEDUCED). -/
def Obligations.EngineWritesAreAccepted : Prop :=
  ∀ (s t : State) (i : CReg) (v : Word), ScopeInv s → advance s = .next t → t.hist = s.hist ++ [.wr i v] →
    s.counter.accepts i = true ∧ t.counter = s.counter.put i v

/-- No run meets the model's fault `noScopeBody` (log entry 12): the step of a state that meets the invariant either
has a next state or names a requester that does not exist (log entry 18). -/
def Obligations.InvariantStepsDoNotStick : Prop :=
  ∀ s : State, ScopeInv s →
    (∃ t, step s = .next t) ∨ (∃ r p, nextEvent s = .issue r p ∧ s.cfg.nreq ≤ r)

/-- 60_exceptions.md R251, R247: a transaction that ends answers its owner, in the same step. -/
def Obligations.TransactionEndAnswersOwner : Prop :=
  ∀ s t : State, MailboxInv s → s.lock = true → step s = .next t → t.lock = false →
    ∃ w, t.mailbox s.owner = some w

/-! ### Whole transactions -/

/-- 43_time_transactions.md R178, the torn-free property: if a GETTIME finishes `OK` and the environment met NoABA
during it, then its last visit of `GT_D1` (the step `a1`) and its last four accesses (`a2` to `a5`) read `DATE`, `TIME`,
`SUBSEC`, `TIME`, `DATE`; `TIME` held `ST` from `a2` to `a4` and `DATE` held `SD` from `a1` to `a5`; at `a3` the
registers were exactly the snapshot; and the response is the translation of that instant, `nsec` by R176 where
`SS <= PREDIV_S`. -/
def Obligations.GettimeIsTornFree : Prop :=
  ∀ (tr : Nat → State) (n : Nat) (payload : List Word),
    SequencingInv (tr 0) → MailboxInv (tr 0) → (tr 0).ts = .gtD1 → IsTrace tr n →
    (∀ k, k < n → (tr k).ts ≠ .idle) → (tr n).ts = .idle →
    (tr n).mailbox (tr 0).owner = some (0x10000000#32 :: payload) → NoABA tr n →
    ∃ a1 a2 a3 a4 a5, a1 < a2 ∧ a2 < a3 ∧ a3 < a4 ∧ a4 < a5 ∧ a5 < n ∧
      ReadsNow .date (tr a1) ∧ ReadsNow .time (tr a2) ∧ ReadsNow .subsec (tr a3) ∧ ReadsNow .time (tr a4) ∧
      ReadsNow .date (tr a5) ∧
      (tr a1).ts = .gtD1 ∧ (∀ k, a1 < k → k < n → engineMoves (tr k) = true → (tr k).ts ≠ .gtD1) ∧
      (∀ k, a2 < k → k < n → engineMoves (tr k) = true → k = a3 ∨ k = a4 ∨ k = a5) ∧
      (∀ k, a2 ≤ k → k ≤ a4 → (tr k).counter.time = (tr n).st) ∧
      (∀ k, a1 ≤ k → k ≤ a5 → (tr k).counter.date = (tr n).sd) ∧
      BitVec.ofNat 16 (bits (tr a3).counter.subsec 15 0) = (tr n).ss ∧
      ∃ nsec, payload = [translateDate (tr a3).counter.date,
          translateTime (tr a3).counter.date (tr a3).counter.time, nsec, 0xFFFFFFFF#32] ∧
        ((tr n).ss.toNat ≤ (tr n).cfg.predivS → nsec = wordOfInt (nanoseconds (tr n).cfg.predivS (tr n).ss.toNat))

/-- 43_time_transactions.md R180: with the counter still, GETTIME makes exactly five accesses and answers. -/
def Obligations.QuietGettimeTakesFiveAccesses : Prop :=
  ∀ (s : State) (rest : List Event), s.inputs = List.replicate 5 .advance ++ rest → s.ts = .gtD1 →
    s.opl = .gettime → bits s.counter.subsec 15 0 ≤ s.cfg.predivS →
    runs 5 s = .next { s with
      inputs := rest
      sd := s.counter.date, st := s.counter.time, ss := BitVec.ofNat 16 (bits s.counter.subsec 15 0)
      lock := false, ts := .idle
      hist := s.hist ++ [.rd .date s.counter.date, .rd .time s.counter.time, .rd .subsec s.counter.subsec,
        .rd .time s.counter.time, .rd .date s.counter.date]
      resp := s.resp.set s.owner (some
        [0x10000000#32, translateDate s.counter.date, translateTime s.counter.date s.counter.time,
         wordOfInt (nanoseconds s.cfg.predivS (bits s.counter.subsec 15 0)), 0xFFFFFFFF#32]) }

/-- 42_init_mode.md R155, R158 (c): when the flag never asserts, a SETTIME makes exactly `INIT_POLL_BUDGET + 1` polls,
withdraws the request, restores protection and answers `Timeout`; `DATE` and `TIME` are not written.
It holds however the quotient `INIT_POLL_BUDGET` rounds (log entry 28). -/
def Obligations.SettimeTimesOutWithinBudget : Prop :=
  ∀ (s : State) (rest : List Event),
    s.inputs = List.replicate (s.cfg.initPollBudget + 5) .advance ++ rest →
    s.ts = .wsWpoff → s.opl = .settime → s.counter.initActive = false →
    runs (s.cfg.initPollBudget + 5) s = .next { s with
      inputs := rest
      counter := { s.counter with wpctl := 1#32, initctl := 0#32 }
      hist := s.hist ++ ([.wr .wpctl 0#32, .wr .initctl 1#32] ++
        List.replicate (s.cfg.initPollBudget + 1) (.rd .status s.counter.status) ++
        [.wr .initctl 0#32, .wr .wpctl 1#32])
      tmo := 0, err := .timeout, ims := .normal, wu := false, lock := false, ts := .idle
      resp := s.resp.set s.owner (some [0x20000003#32]) }

/-- 43_time_transactions.md R181, 42_init_mode.md R158 (b): with the flag set at the first poll a SETTIME makes seven
accesses, the counter holds its two words, and the answer is `OK`. -/
def Obligations.SettimeWritesTheTime : Prop :=
  ∀ (s : State) (rest : List Event), s.inputs = List.replicate 7 .advance ++ rest →
    s.ts = .wsWpoff → s.opl = .settime → s.err = .ok → s.counter.initActive = true →
    runs 7 s = .next { s with
      inputs := rest
      counter := { s.counter with wpctl := 1#32, initctl := 0#32, date := s.argDate, time := s.argTime }
      hist := s.hist ++ [.wr .wpctl 0#32, .wr .initctl 1#32, .rd .status s.counter.status,
        .wr .date s.argDate, .wr .time s.argTime, .wr .initctl 0#32, .wr .wpctl 1#32]
      tmo := s.cfg.initPollBudget, ims := .normal, wu := false, lock := false, ts := .idle
      resp := s.resp.set s.owner (some [0x20000000#32]) }

/-- 44_calibration_transactions.md R206, R209 (a): when the pending flag never clears, a SETCAL makes exactly
`TMO + 1` reads, all of `STATUS`, writes nothing and answers `Timeout`. -/
def Obligations.SetcalTimesOutWithinBudget : Prop :=
  ∀ (s : State) (rest : List Event), s.inputs = List.replicate (s.tmo + 1) .advance ++ rest →
    s.ts = .scPoll → s.opl = .setcal → s.counter.calPending = true →
    runs (s.tmo + 1) s = .next { s with
      inputs := rest
      hist := s.hist ++ List.replicate (s.tmo + 1) (.rd .status s.counter.status)
      tmo := 0, lock := false, ts := .idle
      resp := s.resp.set s.owner (some [0x40000003#32]) }

/-- 43_time_transactions.md R185 (d), 20_memory.md R78: of two SETTIME commands issued one after the other by two
requesters with nothing in flight, the first is accepted and the second is answered `Busy`. -/
def Obligations.ContendingSettimesOneSucceeds : Prop :=
  ∀ (s : State) (r q : Nat) (i j : Instr) (rest : List Event),
    i.wf = true → j.wf = true →
    (∃ y mo d w h mi se, i = .settime y mo d w h mi se ∧ 0 ≤ y ∧ y ≤ 99 ∧ 0 ≤ w ∧ w ≤ 6) →
    (∃ y mo d w h mi se, j = .settime y mo d w h mi se ∧ 0 ≤ y ∧ y ≤ 99 ∧ 0 ≤ w ∧ w ≤ 6) →
    s.inputs = .issue r (encode i) :: .issue q (encode j) :: rest →
    r ≠ q → r < s.cfg.nreq → q < s.cfg.nreq → s.resp.length = s.cfg.nreq →
    s.configured = true → s.lock = false →
    ∃ t, runs 2 s = .next t ∧ t.lock = true ∧ t.owner = r ∧ t.opl = .settime ∧ t.ts = .wsWpoff ∧
      t.mailbox r = none ∧ t.mailbox q = some [0x20000002#32]
end

