-- ==== Sys2Proof/Laws/Fields.lean ====
section
/-! SUPPORT. Bit fields of words built from fields, and the counter's flags after a step. -/

namespace Sys2Proof

/-- A field of a word is at most its width's worth. -/
theorem bits_lt (w : Word) (hi lo : Nat) : bits w hi lo < 2 ^ (hi + 1 - lo) :=
  Nat.mod_lt _ (by positivity)

/-- A field of a word written as a number below `2 ^ 32`. -/
theorem bits_ofNat (v hi lo : Nat) (h : v < 2 ^ 32) :
    bits (BitVec.ofNat 32 v) hi lo = v / 2 ^ lo % 2 ^ (hi + 1 - lo) := by
  rw [bits, BitVec.toNat_ofNat, Nat.mod_eq_of_lt h]

/-- Every word is its whole field. -/
theorem bits_all (w : Word) : bits w 31 0 = w.toNat := by
  have := w.isLt
  simp only [bits, pow_zero, Nat.div_one, Nat.sub_zero]
  omega

theorem bit_eq_true (w : Word) (i : Nat) : bit w i = true ↔ bits w i i = 1 := by simp [bit]

theorem bits_one_lt (w : Word) (i : Nat) : bits w i i < 2 := by
  have h := bits_lt w i i
  rwa [show i + 1 - i = 1 by omega, pow_one] at h

theorem bit_eq_false (w : Word) (i : Nat) : bit w i = false ↔ bits w i i = 0 := by
  have := bits_one_lt w i
  simp only [bit, beq_eq_false_iff_ne]
  omega

/-- A bit is its one-bit field. -/
theorem bit_toNat (w : Word) (i : Nat) : (bit w i).toNat = bits w i i := by
  have := bits_one_lt w i
  rcases hb : bit w i with _ | _
  · rw [bit_eq_false] at hb
    simp [hb]
  · rw [bit_eq_true] at hb
    simp [hb]

/-- `signed` undoes `field` on the range of `n`-bit two's complement. -/
theorem signed_field (n : Nat) (hn : 0 < n) (v : Int) (h : inSigned n v = true) :
    signed n (field n v) = v := by
  obtain ⟨m, rfl⟩ := Nat.exists_eq_add_of_lt hn
  simp only [inSigned, decide_eq_true_eq, signed, field, Nat.zero_add, Nat.add_sub_cancel] at *
  have hp : (0 : Int) < 2 ^ m := by positivity
  have he : (2 : Int) ^ (m + 1) = 2 * 2 ^ m := by ring
  rw [he]
  have hc : ((2 ^ m : Nat) : Int) = 2 ^ m := by push_cast; rfl
  rcases le_or_gt 0 v with h0 | h0
  · rw [Int.emod_eq_of_lt h0 (by omega)]
    rw [if_pos (by omega)]
    omega
  · have : v % (2 * 2 ^ m) = v + 2 * 2 ^ m := by
      rw [← Int.add_emod_right]
      exact Int.emod_eq_of_lt (by omega) (by omega)
    rw [this, if_neg (by omega)]
    omega

/-- A signed field fits its bits. -/
theorem field_lt (n : Nat) (v : Int) : field n v < 2 ^ n := by
  have hp : (0 : Int) < 2 ^ n := by positivity
  have hc : ((2 ^ n : Nat) : Int) = 2 ^ n := by push_cast; rfl
  have h1 := Int.emod_nonneg v hp.ne'
  have h2 := Int.emod_lt_of_pos v hp
  simp only [field]
  omega

end Sys2Proof

namespace Sys2Proof.Machine

/-- The flags of a `STATUS` word built from them. -/
@[simp] theorem initActiveBit_statusWord (w : Word) (a p : Bool) : initActiveBit (statusWord w a p) = a := by
  have h := bits_lt w 31 2
  have ha := a.toNat_le
  have hp := p.toNat_le
  cases a <;> simp only [initActiveBit, bit_eq_true, bit_eq_false, statusWord] <;>
    rw [bits_ofNat _ _ _ (by simp at *; omega)] <;> simp at * <;> omega

@[simp] theorem calPendingBit_statusWord (w : Word) (a p : Bool) : calPendingBit (statusWord w a p) = p := by
  have h := bits_lt w 31 2
  have ha := a.toNat_le
  have hp := p.toNat_le
  cases p <;> simp only [calPendingBit, bit_eq_true, bit_eq_false, statusWord] <;>
    rw [bits_ofNat _ _ _ (by simp at *; omega)] <;> simp at * <;> omega

/-- What a counter step leaves of the flags (20_memory.md R70, R71). -/
@[simp] theorem counterStep_initActive (m : CounterMove) (c : Counter) :
    (counterStep m c).initActive = nextInitActive c (initActiveBit m.status) := by
  simp [counterStep, Counter.initActive]

@[simp] theorem counterStep_calPending (m : CounterMove) (c : Counter) :
    (counterStep m c).calPending = nextCalPending c (calPendingBit m.status) := by
  simp [counterStep, Counter.calPending]

/-- The stable registers and the hidden bit do not change (R68). -/
@[simp] theorem counterStep_initctl (m : CounterMove) (c : Counter) : (counterStep m c).initctl = c.initctl := rfl
@[simp] theorem counterStep_ctrl (m : CounterMove) (c : Counter) : (counterStep m c).ctrl = c.ctrl := rfl
@[simp] theorem counterStep_presc (m : CounterMove) (c : Counter) : (counterStep m c).presc = c.presc := rfl
@[simp] theorem counterStep_cal (m : CounterMove) (c : Counter) : (counterStep m c).cal = c.cal := rfl
@[simp] theorem counterStep_wpctl (m : CounterMove) (c : Counter) : (counterStep m c).wpctl = c.wpctl := rfl
@[simp] theorem counterStep_calWritten (m : CounterMove) (c : Counter) :
    (counterStep m c).calWritten = c.calWritten := rfl
@[simp] theorem counterStep_initReq (m : CounterMove) (c : Counter) :
    (counterStep m c).initReq = c.initReq := rfl
@[simp] theorem counterStep_wpen (m : CounterMove) (c : Counter) : (counterStep m c).wpen = c.wpen := rfl

/-! ### Writes (20_memory.md R69) -/

theorem Counter.write_of_accepts (c : Counter) (i : CReg) (v : Word) (h : c.accepts i = true) :
    c.write i v = c.put i v := by simp [Counter.write, h]

theorem Counter.write_of_refused (c : Counter) (i : CReg) (v : Word) (h : c.accepts i = false) :
    c.write i v = c := by simp [Counter.write, h]

/-- A read after a write of the same register gives the value written. -/
@[simp] theorem Counter.read_put_same (c : Counter) (i : CReg) (v : Word) : (c.put i v).read i = v := by
  cases i <;> rfl

/-- A write leaves every other register alone. -/
theorem Counter.read_put_other (c : Counter) (i j : CReg) (v : Word) (h : j ≠ i) :
    (c.put i v).read j = c.read j := by
  cases i <;> cases j <;> first | rfl | exact absurd rfl h

@[simp] theorem write_wpctl (c : Counter) (v : Word) : c.write .wpctl v = { c with wpctl := v } := rfl
@[simp] theorem write_initctl (c : Counter) (v : Word) : c.write .initctl v = { c with initctl := v } := rfl

end Sys2Proof.Machine
end

