-- ==== Sys2Proof/Laws/State.lean ====
section
/-! SUPPORT. What each named update of the state leaves in each field: one lemma a field, true by `rfl`. -/

namespace Sys2Proof.Machine

variable (s : State)

/-! ### `setMailbox` -/

@[simp] theorem setMailbox_cfg (r : Nat) (v : Option (List Word)) : (setMailbox r v s).cfg = s.cfg := rfl
@[simp] theorem setMailbox_ts (r : Nat) (v : Option (List Word)) : (setMailbox r v s).ts = s.ts := rfl
@[simp] theorem setMailbox_opl (r : Nat) (v : Option (List Word)) : (setMailbox r v s).opl = s.opl := rfl
@[simp] theorem setMailbox_ims (r : Nat) (v : Option (List Word)) : (setMailbox r v s).ims = s.ims := rfl
@[simp] theorem setMailbox_lock (r : Nat) (v : Option (List Word)) : (setMailbox r v s).lock = s.lock := rfl
@[simp] theorem setMailbox_owner (r : Nat) (v : Option (List Word)) : (setMailbox r v s).owner = s.owner := rfl
@[simp] theorem setMailbox_configured (r : Nat) (v : Option (List Word)) : (setMailbox r v s).configured = s.configured := rfl
@[simp] theorem setMailbox_wu (r : Nat) (v : Option (List Word)) : (setMailbox r v s).wu = s.wu := rfl
@[simp] theorem setMailbox_err (r : Nat) (v : Option (List Word)) : (setMailbox r v s).err = s.err := rfl
@[simp] theorem setMailbox_cfFmt (r : Nat) (v : Option (List Word)) : (setMailbox r v s).cfFmt = s.cfFmt := rfl
@[simp] theorem setMailbox_tmo (r : Nat) (v : Option (List Word)) : (setMailbox r v s).tmo = s.tmo := rfl
@[simp] theorem setMailbox_rty (r : Nat) (v : Option (List Word)) : (setMailbox r v s).rty = s.rty := rfl
@[simp] theorem setMailbox_sd (r : Nat) (v : Option (List Word)) : (setMailbox r v s).sd = s.sd := rfl
@[simp] theorem setMailbox_st (r : Nat) (v : Option (List Word)) : (setMailbox r v s).st = s.st := rfl
@[simp] theorem setMailbox_ss (r : Nat) (v : Option (List Word)) : (setMailbox r v s).ss = s.ss := rfl
@[simp] theorem setMailbox_argDate (r : Nat) (v : Option (List Word)) : (setMailbox r v s).argDate = s.argDate := rfl
@[simp] theorem setMailbox_argTime (r : Nat) (v : Option (List Word)) : (setMailbox r v s).argTime = s.argTime := rfl
@[simp] theorem setMailbox_argCal (r : Nat) (v : Option (List Word)) : (setMailbox r v s).argCal = s.argCal := rfl
@[simp] theorem setMailbox_resp (r : Nat) (v : Option (List Word)) : (setMailbox r v s).resp = s.resp.set r v := rfl
@[simp] theorem setMailbox_hist (r : Nat) (v : Option (List Word)) : (setMailbox r v s).hist = s.hist := rfl
@[simp] theorem setMailbox_counter (r : Nat) (v : Option (List Word)) : (setMailbox r v s).counter = s.counter := rfl
@[simp] theorem setMailbox_clkReady (r : Nat) (v : Option (List Word)) : (setMailbox r v s).clkReady = s.clkReady := rfl
@[simp] theorem setMailbox_inputs (r : Nat) (v : Option (List Word)) : (setMailbox r v s).inputs = s.inputs := rfl
@[simp] theorem setMailbox_cycle (r : Nat) (v : Option (List Word)) : (setMailbox r v s).cycle = s.cycle := rfl
@[simp] theorem setMailbox_eventCtr (r : Nat) (v : Option (List Word)) : (setMailbox r v s).eventCtr = s.eventCtr := rfl
@[simp] theorem setMailbox_issuer (r : Nat) (v : Option (List Word)) : (setMailbox r v s).issuer = s.issuer := rfl
@[simp] theorem setMailbox_freeCtr (r : Nat) (v : Option (List Word)) : (setMailbox r v s).freeCtr = s.freeCtr := rfl

/-! ### `respond` -/

@[simp] theorem respond_cfg (r n : Nat) (e : Status) (p : List Word) : (respond r n e p s).cfg = s.cfg := rfl
@[simp] theorem respond_ts (r n : Nat) (e : Status) (p : List Word) : (respond r n e p s).ts = s.ts := rfl
@[simp] theorem respond_opl (r n : Nat) (e : Status) (p : List Word) : (respond r n e p s).opl = s.opl := rfl
@[simp] theorem respond_ims (r n : Nat) (e : Status) (p : List Word) : (respond r n e p s).ims = s.ims := rfl
@[simp] theorem respond_lock (r n : Nat) (e : Status) (p : List Word) : (respond r n e p s).lock = s.lock := rfl
@[simp] theorem respond_owner (r n : Nat) (e : Status) (p : List Word) : (respond r n e p s).owner = s.owner := rfl
@[simp] theorem respond_configured (r n : Nat) (e : Status) (p : List Word) : (respond r n e p s).configured = s.configured := rfl
@[simp] theorem respond_wu (r n : Nat) (e : Status) (p : List Word) : (respond r n e p s).wu = s.wu := rfl
@[simp] theorem respond_err (r n : Nat) (e : Status) (p : List Word) : (respond r n e p s).err = s.err := rfl
@[simp] theorem respond_cfFmt (r n : Nat) (e : Status) (p : List Word) : (respond r n e p s).cfFmt = s.cfFmt := rfl
@[simp] theorem respond_tmo (r n : Nat) (e : Status) (p : List Word) : (respond r n e p s).tmo = s.tmo := rfl
@[simp] theorem respond_rty (r n : Nat) (e : Status) (p : List Word) : (respond r n e p s).rty = s.rty := rfl
@[simp] theorem respond_sd (r n : Nat) (e : Status) (p : List Word) : (respond r n e p s).sd = s.sd := rfl
@[simp] theorem respond_st (r n : Nat) (e : Status) (p : List Word) : (respond r n e p s).st = s.st := rfl
@[simp] theorem respond_ss (r n : Nat) (e : Status) (p : List Word) : (respond r n e p s).ss = s.ss := rfl
@[simp] theorem respond_argDate (r n : Nat) (e : Status) (p : List Word) : (respond r n e p s).argDate = s.argDate := rfl
@[simp] theorem respond_argTime (r n : Nat) (e : Status) (p : List Word) : (respond r n e p s).argTime = s.argTime := rfl
@[simp] theorem respond_argCal (r n : Nat) (e : Status) (p : List Word) : (respond r n e p s).argCal = s.argCal := rfl
@[simp] theorem respond_resp (r n : Nat) (e : Status) (p : List Word) : (respond r n e p s).resp = s.resp.set r (some (response n e p)) := rfl
@[simp] theorem respond_hist (r n : Nat) (e : Status) (p : List Word) : (respond r n e p s).hist = s.hist := rfl
@[simp] theorem respond_counter (r n : Nat) (e : Status) (p : List Word) : (respond r n e p s).counter = s.counter := rfl
@[simp] theorem respond_clkReady (r n : Nat) (e : Status) (p : List Word) : (respond r n e p s).clkReady = s.clkReady := rfl
@[simp] theorem respond_inputs (r n : Nat) (e : Status) (p : List Word) : (respond r n e p s).inputs = s.inputs := rfl
@[simp] theorem respond_cycle (r n : Nat) (e : Status) (p : List Word) : (respond r n e p s).cycle = s.cycle := rfl
@[simp] theorem respond_eventCtr (r n : Nat) (e : Status) (p : List Word) : (respond r n e p s).eventCtr = s.eventCtr := rfl
@[simp] theorem respond_issuer (r n : Nat) (e : Status) (p : List Word) : (respond r n e p s).issuer = s.issuer := rfl
@[simp] theorem respond_freeCtr (r n : Nat) (e : Status) (p : List Word) : (respond r n e p s).freeCtr = s.freeCtr := rfl

/-! ### `openIssue` -/

@[simp] theorem openIssue_cfg : (openIssue s).cfg = s.cfg := rfl
@[simp] theorem openIssue_ts : (openIssue s).ts = s.ts := rfl
@[simp] theorem openIssue_opl : (openIssue s).opl = s.opl := rfl
@[simp] theorem openIssue_ims : (openIssue s).ims = s.ims := rfl
@[simp] theorem openIssue_lock : (openIssue s).lock = s.lock := rfl
@[simp] theorem openIssue_owner : (openIssue s).owner = s.owner := rfl
@[simp] theorem openIssue_configured : (openIssue s).configured = s.configured := rfl
@[simp] theorem openIssue_wu : (openIssue s).wu = s.wu := rfl
@[simp] theorem openIssue_err : (openIssue s).err = s.err := rfl
@[simp] theorem openIssue_cfFmt : (openIssue s).cfFmt = s.cfFmt := rfl
@[simp] theorem openIssue_tmo : (openIssue s).tmo = s.tmo := rfl
@[simp] theorem openIssue_rty : (openIssue s).rty = s.rty := rfl
@[simp] theorem openIssue_sd : (openIssue s).sd = s.sd := rfl
@[simp] theorem openIssue_st : (openIssue s).st = s.st := rfl
@[simp] theorem openIssue_ss : (openIssue s).ss = s.ss := rfl
@[simp] theorem openIssue_argDate : (openIssue s).argDate = s.argDate := rfl
@[simp] theorem openIssue_argTime : (openIssue s).argTime = s.argTime := rfl
@[simp] theorem openIssue_argCal : (openIssue s).argCal = s.argCal := rfl
@[simp] theorem openIssue_resp : (openIssue s).resp = s.resp.set s.issuer none := rfl
@[simp] theorem openIssue_hist : (openIssue s).hist = s.hist := rfl
@[simp] theorem openIssue_counter : (openIssue s).counter = s.counter := rfl
@[simp] theorem openIssue_clkReady : (openIssue s).clkReady = s.clkReady := rfl
@[simp] theorem openIssue_inputs : (openIssue s).inputs = s.inputs := rfl
@[simp] theorem openIssue_cycle : (openIssue s).cycle = s.cycle := rfl
@[simp] theorem openIssue_eventCtr : (openIssue s).eventCtr = s.eventCtr := rfl
@[simp] theorem openIssue_issuer : (openIssue s).issuer = s.issuer := rfl
@[simp] theorem openIssue_freeCtr : (openIssue s).freeCtr = s.freeCtr := rfl

/-! ### `failInIssue` -/

@[simp] theorem failInIssue_cfg (op : Op) (e : Status) : (failInIssue op e s).cfg = s.cfg := rfl
@[simp] theorem failInIssue_ts (op : Op) (e : Status) : (failInIssue op e s).ts = s.ts := rfl
@[simp] theorem failInIssue_opl (op : Op) (e : Status) : (failInIssue op e s).opl = s.opl := rfl
@[simp] theorem failInIssue_ims (op : Op) (e : Status) : (failInIssue op e s).ims = s.ims := rfl
@[simp] theorem failInIssue_lock (op : Op) (e : Status) : (failInIssue op e s).lock = s.lock := rfl
@[simp] theorem failInIssue_owner (op : Op) (e : Status) : (failInIssue op e s).owner = s.owner := rfl
@[simp] theorem failInIssue_configured (op : Op) (e : Status) : (failInIssue op e s).configured = s.configured := rfl
@[simp] theorem failInIssue_wu (op : Op) (e : Status) : (failInIssue op e s).wu = s.wu := rfl
@[simp] theorem failInIssue_err (op : Op) (e : Status) : (failInIssue op e s).err = s.err := rfl
@[simp] theorem failInIssue_cfFmt (op : Op) (e : Status) : (failInIssue op e s).cfFmt = s.cfFmt := rfl
@[simp] theorem failInIssue_tmo (op : Op) (e : Status) : (failInIssue op e s).tmo = s.tmo := rfl
@[simp] theorem failInIssue_rty (op : Op) (e : Status) : (failInIssue op e s).rty = s.rty := rfl
@[simp] theorem failInIssue_sd (op : Op) (e : Status) : (failInIssue op e s).sd = s.sd := rfl
@[simp] theorem failInIssue_st (op : Op) (e : Status) : (failInIssue op e s).st = s.st := rfl
@[simp] theorem failInIssue_ss (op : Op) (e : Status) : (failInIssue op e s).ss = s.ss := rfl
@[simp] theorem failInIssue_argDate (op : Op) (e : Status) : (failInIssue op e s).argDate = s.argDate := rfl
@[simp] theorem failInIssue_argTime (op : Op) (e : Status) : (failInIssue op e s).argTime = s.argTime := rfl
@[simp] theorem failInIssue_argCal (op : Op) (e : Status) : (failInIssue op e s).argCal = s.argCal := rfl
@[simp] theorem failInIssue_resp (op : Op) (e : Status) : (failInIssue op e s).resp = s.resp.set s.issuer (some (response op.code e [])) := rfl
@[simp] theorem failInIssue_hist (op : Op) (e : Status) : (failInIssue op e s).hist = s.hist := rfl
@[simp] theorem failInIssue_counter (op : Op) (e : Status) : (failInIssue op e s).counter = s.counter := rfl
@[simp] theorem failInIssue_clkReady (op : Op) (e : Status) : (failInIssue op e s).clkReady = s.clkReady := rfl
@[simp] theorem failInIssue_inputs (op : Op) (e : Status) : (failInIssue op e s).inputs = s.inputs := rfl
@[simp] theorem failInIssue_cycle (op : Op) (e : Status) : (failInIssue op e s).cycle = s.cycle := rfl
@[simp] theorem failInIssue_eventCtr (op : Op) (e : Status) : (failInIssue op e s).eventCtr = s.eventCtr := rfl
@[simp] theorem failInIssue_issuer (op : Op) (e : Status) : (failInIssue op e s).issuer = s.issuer := rfl
@[simp] theorem failInIssue_freeCtr (op : Op) (e : Status) : (failInIssue op e s).freeCtr = s.freeCtr := rfl

/-! ### `finish` -/

@[simp] theorem finish_cfg (e : Status) (p : List Word) : (finish e p s).cfg = s.cfg := rfl
@[simp] theorem finish_ts (e : Status) (p : List Word) : (finish e p s).ts = .idle := rfl
@[simp] theorem finish_opl (e : Status) (p : List Word) : (finish e p s).opl = s.opl := rfl
@[simp] theorem finish_ims (e : Status) (p : List Word) : (finish e p s).ims = s.ims := rfl
@[simp] theorem finish_lock (e : Status) (p : List Word) : (finish e p s).lock = false := rfl
@[simp] theorem finish_owner (e : Status) (p : List Word) : (finish e p s).owner = s.owner := rfl
@[simp] theorem finish_configured (e : Status) (p : List Word) : (finish e p s).configured = s.configured := rfl
@[simp] theorem finish_wu (e : Status) (p : List Word) : (finish e p s).wu = s.wu := rfl
@[simp] theorem finish_err (e : Status) (p : List Word) : (finish e p s).err = s.err := rfl
@[simp] theorem finish_cfFmt (e : Status) (p : List Word) : (finish e p s).cfFmt = s.cfFmt := rfl
@[simp] theorem finish_tmo (e : Status) (p : List Word) : (finish e p s).tmo = s.tmo := rfl
@[simp] theorem finish_rty (e : Status) (p : List Word) : (finish e p s).rty = s.rty := rfl
@[simp] theorem finish_sd (e : Status) (p : List Word) : (finish e p s).sd = s.sd := rfl
@[simp] theorem finish_st (e : Status) (p : List Word) : (finish e p s).st = s.st := rfl
@[simp] theorem finish_ss (e : Status) (p : List Word) : (finish e p s).ss = s.ss := rfl
@[simp] theorem finish_argDate (e : Status) (p : List Word) : (finish e p s).argDate = s.argDate := rfl
@[simp] theorem finish_argTime (e : Status) (p : List Word) : (finish e p s).argTime = s.argTime := rfl
@[simp] theorem finish_argCal (e : Status) (p : List Word) : (finish e p s).argCal = s.argCal := rfl
@[simp] theorem finish_resp (e : Status) (p : List Word) : (finish e p s).resp = s.resp.set s.owner (some (response s.opl.op.code e p)) := rfl
@[simp] theorem finish_hist (e : Status) (p : List Word) : (finish e p s).hist = s.hist := rfl
@[simp] theorem finish_counter (e : Status) (p : List Word) : (finish e p s).counter = s.counter := rfl
@[simp] theorem finish_clkReady (e : Status) (p : List Word) : (finish e p s).clkReady = s.clkReady := rfl
@[simp] theorem finish_inputs (e : Status) (p : List Word) : (finish e p s).inputs = s.inputs := rfl
@[simp] theorem finish_cycle (e : Status) (p : List Word) : (finish e p s).cycle = s.cycle := rfl
@[simp] theorem finish_eventCtr (e : Status) (p : List Word) : (finish e p s).eventCtr = s.eventCtr := rfl
@[simp] theorem finish_issuer (e : Status) (p : List Word) : (finish e p s).issuer = s.issuer := rfl
@[simp] theorem finish_freeCtr (e : Status) (p : List Word) : (finish e p s).freeCtr = s.freeCtr := rfl

/-! ### `failInScope` -/

@[simp] theorem failInScope_cfg (e : Status) : (failInScope e s).cfg = s.cfg := rfl
@[simp] theorem failInScope_ts (e : Status) : (failInScope e s).ts = .wsLeave := rfl
@[simp] theorem failInScope_opl (e : Status) : (failInScope e s).opl = s.opl := rfl
@[simp] theorem failInScope_ims (e : Status) : (failInScope e s).ims = .leavingInit := rfl
@[simp] theorem failInScope_lock (e : Status) : (failInScope e s).lock = s.lock := rfl
@[simp] theorem failInScope_owner (e : Status) : (failInScope e s).owner = s.owner := rfl
@[simp] theorem failInScope_configured (e : Status) : (failInScope e s).configured = s.configured := rfl
@[simp] theorem failInScope_wu (e : Status) : (failInScope e s).wu = s.wu := rfl
@[simp] theorem failInScope_err (e : Status) : (failInScope e s).err = e := rfl
@[simp] theorem failInScope_cfFmt (e : Status) : (failInScope e s).cfFmt = s.cfFmt := rfl
@[simp] theorem failInScope_tmo (e : Status) : (failInScope e s).tmo = s.tmo := rfl
@[simp] theorem failInScope_rty (e : Status) : (failInScope e s).rty = s.rty := rfl
@[simp] theorem failInScope_sd (e : Status) : (failInScope e s).sd = s.sd := rfl
@[simp] theorem failInScope_st (e : Status) : (failInScope e s).st = s.st := rfl
@[simp] theorem failInScope_ss (e : Status) : (failInScope e s).ss = s.ss := rfl
@[simp] theorem failInScope_argDate (e : Status) : (failInScope e s).argDate = s.argDate := rfl
@[simp] theorem failInScope_argTime (e : Status) : (failInScope e s).argTime = s.argTime := rfl
@[simp] theorem failInScope_argCal (e : Status) : (failInScope e s).argCal = s.argCal := rfl
@[simp] theorem failInScope_resp (e : Status) : (failInScope e s).resp = s.resp := rfl
@[simp] theorem failInScope_hist (e : Status) : (failInScope e s).hist = s.hist := rfl
@[simp] theorem failInScope_counter (e : Status) : (failInScope e s).counter = s.counter := rfl
@[simp] theorem failInScope_clkReady (e : Status) : (failInScope e s).clkReady = s.clkReady := rfl
@[simp] theorem failInScope_inputs (e : Status) : (failInScope e s).inputs = s.inputs := rfl
@[simp] theorem failInScope_cycle (e : Status) : (failInScope e s).cycle = s.cycle := rfl
@[simp] theorem failInScope_eventCtr (e : Status) : (failInScope e s).eventCtr = s.eventCtr := rfl
@[simp] theorem failInScope_issuer (e : Status) : (failInScope e s).issuer = s.issuer := rfl
@[simp] theorem failInScope_freeCtr (e : Status) : (failInScope e s).freeCtr = s.freeCtr := rfl

/-! ### `logRead` -/

@[simp] theorem logRead_cfg (i : CReg) : (logRead i s).cfg = s.cfg := rfl
@[simp] theorem logRead_ts (i : CReg) : (logRead i s).ts = s.ts := rfl
@[simp] theorem logRead_opl (i : CReg) : (logRead i s).opl = s.opl := rfl
@[simp] theorem logRead_ims (i : CReg) : (logRead i s).ims = s.ims := rfl
@[simp] theorem logRead_lock (i : CReg) : (logRead i s).lock = s.lock := rfl
@[simp] theorem logRead_owner (i : CReg) : (logRead i s).owner = s.owner := rfl
@[simp] theorem logRead_configured (i : CReg) : (logRead i s).configured = s.configured := rfl
@[simp] theorem logRead_wu (i : CReg) : (logRead i s).wu = s.wu := rfl
@[simp] theorem logRead_err (i : CReg) : (logRead i s).err = s.err := rfl
@[simp] theorem logRead_cfFmt (i : CReg) : (logRead i s).cfFmt = s.cfFmt := rfl
@[simp] theorem logRead_tmo (i : CReg) : (logRead i s).tmo = s.tmo := rfl
@[simp] theorem logRead_rty (i : CReg) : (logRead i s).rty = s.rty := rfl
@[simp] theorem logRead_sd (i : CReg) : (logRead i s).sd = s.sd := rfl
@[simp] theorem logRead_st (i : CReg) : (logRead i s).st = s.st := rfl
@[simp] theorem logRead_ss (i : CReg) : (logRead i s).ss = s.ss := rfl
@[simp] theorem logRead_argDate (i : CReg) : (logRead i s).argDate = s.argDate := rfl
@[simp] theorem logRead_argTime (i : CReg) : (logRead i s).argTime = s.argTime := rfl
@[simp] theorem logRead_argCal (i : CReg) : (logRead i s).argCal = s.argCal := rfl
@[simp] theorem logRead_resp (i : CReg) : (logRead i s).resp = s.resp := rfl
@[simp] theorem logRead_hist (i : CReg) : (logRead i s).hist = s.hist ++ [.rd i (s.counter.read i)] := rfl
@[simp] theorem logRead_counter (i : CReg) : (logRead i s).counter = s.counter := rfl
@[simp] theorem logRead_clkReady (i : CReg) : (logRead i s).clkReady = s.clkReady := rfl
@[simp] theorem logRead_inputs (i : CReg) : (logRead i s).inputs = s.inputs := rfl
@[simp] theorem logRead_cycle (i : CReg) : (logRead i s).cycle = s.cycle := rfl
@[simp] theorem logRead_eventCtr (i : CReg) : (logRead i s).eventCtr = s.eventCtr := rfl
@[simp] theorem logRead_issuer (i : CReg) : (logRead i s).issuer = s.issuer := rfl
@[simp] theorem logRead_freeCtr (i : CReg) : (logRead i s).freeCtr = s.freeCtr := rfl

/-! ### `cwrite` -/

@[simp] theorem cwrite_cfg (i : CReg) (v : Word) : (cwrite i v s).cfg = s.cfg := rfl
@[simp] theorem cwrite_ts (i : CReg) (v : Word) : (cwrite i v s).ts = s.ts := rfl
@[simp] theorem cwrite_opl (i : CReg) (v : Word) : (cwrite i v s).opl = s.opl := rfl
@[simp] theorem cwrite_ims (i : CReg) (v : Word) : (cwrite i v s).ims = s.ims := rfl
@[simp] theorem cwrite_lock (i : CReg) (v : Word) : (cwrite i v s).lock = s.lock := rfl
@[simp] theorem cwrite_owner (i : CReg) (v : Word) : (cwrite i v s).owner = s.owner := rfl
@[simp] theorem cwrite_configured (i : CReg) (v : Word) : (cwrite i v s).configured = s.configured := rfl
@[simp] theorem cwrite_wu (i : CReg) (v : Word) : (cwrite i v s).wu = s.wu := rfl
@[simp] theorem cwrite_err (i : CReg) (v : Word) : (cwrite i v s).err = s.err := rfl
@[simp] theorem cwrite_cfFmt (i : CReg) (v : Word) : (cwrite i v s).cfFmt = s.cfFmt := rfl
@[simp] theorem cwrite_tmo (i : CReg) (v : Word) : (cwrite i v s).tmo = s.tmo := rfl
@[simp] theorem cwrite_rty (i : CReg) (v : Word) : (cwrite i v s).rty = s.rty := rfl
@[simp] theorem cwrite_sd (i : CReg) (v : Word) : (cwrite i v s).sd = s.sd := rfl
@[simp] theorem cwrite_st (i : CReg) (v : Word) : (cwrite i v s).st = s.st := rfl
@[simp] theorem cwrite_ss (i : CReg) (v : Word) : (cwrite i v s).ss = s.ss := rfl
@[simp] theorem cwrite_argDate (i : CReg) (v : Word) : (cwrite i v s).argDate = s.argDate := rfl
@[simp] theorem cwrite_argTime (i : CReg) (v : Word) : (cwrite i v s).argTime = s.argTime := rfl
@[simp] theorem cwrite_argCal (i : CReg) (v : Word) : (cwrite i v s).argCal = s.argCal := rfl
@[simp] theorem cwrite_resp (i : CReg) (v : Word) : (cwrite i v s).resp = s.resp := rfl
@[simp] theorem cwrite_hist (i : CReg) (v : Word) : (cwrite i v s).hist = s.hist ++ [.wr i v] := rfl
@[simp] theorem cwrite_counter (i : CReg) (v : Word) : (cwrite i v s).counter = s.counter.write i v := rfl
@[simp] theorem cwrite_clkReady (i : CReg) (v : Word) : (cwrite i v s).clkReady = s.clkReady := rfl
@[simp] theorem cwrite_inputs (i : CReg) (v : Word) : (cwrite i v s).inputs = s.inputs := rfl
@[simp] theorem cwrite_cycle (i : CReg) (v : Word) : (cwrite i v s).cycle = s.cycle := rfl
@[simp] theorem cwrite_eventCtr (i : CReg) (v : Word) : (cwrite i v s).eventCtr = s.eventCtr := rfl
@[simp] theorem cwrite_issuer (i : CReg) (v : Word) : (cwrite i v s).issuer = s.issuer := rfl
@[simp] theorem cwrite_freeCtr (i : CReg) (v : Word) : (cwrite i v s).freeCtr = s.freeCtr := rfl

/-! ### `accept` -/

@[simp] theorem accept_cfg (t : Transaction) : (accept t s).cfg = s.cfg := rfl
@[simp] theorem accept_ts (t : Transaction) : (accept t s).ts = firstState t := rfl
@[simp] theorem accept_opl (t : Transaction) : (accept t s).opl = t := rfl
@[simp] theorem accept_ims (t : Transaction) : (accept t s).ims = s.ims := rfl
@[simp] theorem accept_lock (t : Transaction) : (accept t s).lock = true := rfl
@[simp] theorem accept_owner (t : Transaction) : (accept t s).owner = s.issuer := rfl
@[simp] theorem accept_configured (t : Transaction) : (accept t s).configured = s.configured := rfl
@[simp] theorem accept_wu (t : Transaction) : (accept t s).wu = s.wu := rfl
@[simp] theorem accept_err (t : Transaction) : (accept t s).err = .ok := rfl
@[simp] theorem accept_cfFmt (t : Transaction) : (accept t s).cfFmt = s.cfFmt := rfl
@[simp] theorem accept_tmo (t : Transaction) : (accept t s).tmo = s.tmo := rfl
@[simp] theorem accept_rty (t : Transaction) : (accept t s).rty = s.rty := rfl
@[simp] theorem accept_sd (t : Transaction) : (accept t s).sd = s.sd := rfl
@[simp] theorem accept_st (t : Transaction) : (accept t s).st = s.st := rfl
@[simp] theorem accept_ss (t : Transaction) : (accept t s).ss = s.ss := rfl
@[simp] theorem accept_argDate (t : Transaction) : (accept t s).argDate = s.argDate := rfl
@[simp] theorem accept_argTime (t : Transaction) : (accept t s).argTime = s.argTime := rfl
@[simp] theorem accept_argCal (t : Transaction) : (accept t s).argCal = s.argCal := rfl
@[simp] theorem accept_resp (t : Transaction) : (accept t s).resp = s.resp := rfl
@[simp] theorem accept_hist (t : Transaction) : (accept t s).hist = s.hist := rfl
@[simp] theorem accept_counter (t : Transaction) : (accept t s).counter = s.counter := rfl
@[simp] theorem accept_clkReady (t : Transaction) : (accept t s).clkReady = s.clkReady := rfl
@[simp] theorem accept_inputs (t : Transaction) : (accept t s).inputs = s.inputs := rfl
@[simp] theorem accept_cycle (t : Transaction) : (accept t s).cycle = s.cycle := rfl
@[simp] theorem accept_eventCtr (t : Transaction) : (accept t s).eventCtr = s.eventCtr := rfl
@[simp] theorem accept_issuer (t : Transaction) : (accept t s).issuer = s.issuer := rfl
@[simp] theorem accept_freeCtr (t : Transaction) : (accept t s).freeCtr = s.freeCtr := rfl

end Sys2Proof.Machine
end

