-- ==== Sys2Proof/Laws/Ops.lean ====
section
/-! SUPPORT. What each shared operation can do, said once: mailboxes, responses, the issue step, the ends of a
transaction, the write scope, GETTIME's retries. -/

namespace Sys2Proof.Machine

/-! ### Mailboxes (10_state.md R34) -/

/-- A mailbox written is the one read, for a requester that exists. -/
theorem mailbox_setMailbox_same (r : Nat) (v : Option (List Word)) (s : State) (h : r < s.resp.length) :
    (setMailbox r v s).mailbox r = v := by
  simp [State.mailbox, setMailbox, h]

/-- The other mailboxes stay. -/
theorem mailbox_setMailbox_other (r q : Nat) (v : Option (List Word)) (s : State) (h : q ≠ r) :
    (setMailbox r v s).mailbox q = s.mailbox q := by
  simp [State.mailbox, setMailbox, List.getElem?_set_ne (Ne.symm h)]

/-- Emptying the requester's mailbox before answering leaves no trace. -/
theorem respond_openIssue (n : Nat) (e : Status) (p : List Word) (s : State) :
    respond s.issuer n e p (openIssue s) = respond s.issuer n e p s := by
  simp [respond, openIssue, setMailbox]

/-- A response is a header and, when `OK`, its payload (30_encoding.md R95). -/
theorem response_ok (n : Nat) (p : List Word) : response n .ok p = responseHeader n .ok :: p := rfl

theorem response_error (n : Nat) (e : Status) (p : List Word) (h : e ≠ .ok) :
    response n e p = [responseHeader n e] := by
  cases e <;> first | rfl | exact absurd rfl h

theorem response_eq_cons (n : Nat) (e : Status) (p : List Word) :
    ∃ ws, response n e p = responseHeader n e :: ws := by
  cases e <;> exact ⟨_, rfl⟩

/-! ### The issue step (30_encoding.md R92, R93) -/

theorem answerPure_none (op : Op) (s : State) :
    answerPure op none s = setMailbox s.issuer (some [responseHeader op.code .invalidArgument]) s := by
  simp only [answerPure, failInIssue, openIssue_issuer, respond_openIssue]
  rfl

theorem answerPure_some (op : Op) (p : List Word) (s : State) :
    answerPure op (some p) s = setMailbox s.issuer (some (responseHeader op.code .ok :: p)) s := by
  simp only [answerPure, respond_openIssue]
  rfl

theorem answerMalformed_eq (cw0 : Word) (s : State) :
    answerMalformed cw0 s =
      setMailbox s.issuer (some [responseHeader (bits cw0 31 28) .invalidArgument]) s := by
  simp only [answerMalformed, respond_openIssue]
  rfl

/-- A pure operation writes its requester's mailbox and nothing else. -/
theorem answerPure_eq_setMailbox (op : Op) (result : Option (List Word)) (s : State) :
    ∃ w ws, answerPure op result s = setMailbox s.issuer (some (w :: ws)) s := by
  cases result with
  | none => exact ⟨_, _, answerPure_none op s⟩
  | some p => exact ⟨_, _, answerPure_some op p s⟩

/-- Check 6 is reached exactly when checks 2 to 5 hold (R93). -/
theorem acceptanceError_eq_none (t : Transaction) (s : State) :
    acceptanceError t s = none ↔
      s.lock = false ∧ (t = .config → s.configured = false ∧ s.clkReady = true) ∧
        (t ≠ .config → s.configured = true) := by
  unfold acceptanceError
  cases s.lock <;> cases s.configured <;> cases s.clkReady <;> cases t <;> simp

/-- A turned-away transaction is never `OK`, nor a timeout. -/
theorem acceptanceError_ne_ok (t : Transaction) (s : State) (e : Status) (h : acceptanceError t s = some e) :
    e ≠ .ok := by
  unfold acceptanceError at h
  rintro rfl
  split_ifs at h <;> simp at h

theorem failInIssue_openIssue (op : Op) (e : Status) (s : State) (h : e ≠ .ok) :
    failInIssue op e (openIssue s) = setMailbox s.issuer (some [responseHeader op.code e]) s := by
  simp only [failInIssue, openIssue_issuer, respond_openIssue]
  rw [respond, response_error _ _ _ h]

/-- All a transaction's issue step can do: answer an error, or be accepted. -/
theorem issueTransaction_cases (t : Transaction) (argumentError : Bool) (latch : State → State) (s : State) :
    (∃ w, issueTransaction t argumentError latch s = setMailbox s.issuer (some [w]) s) ∨
    (argumentError = false ∧ acceptanceError t s = none ∧
      issueTransaction t argumentError latch s = latch (accept t (openIssue s))) := by
  unfold issueTransaction
  cases argumentError with
  | true => exact .inl ⟨_, failInIssue_openIssue _ _ _ (by decide)⟩
  | false =>
    cases h : acceptanceError t s with
    | some e => exact .inl ⟨_, failInIssue_openIssue _ _ _ (acceptanceError_ne_ok t s e h)⟩
    | none => exact .inr ⟨rfl, rfl, rfl⟩

/-- What an accepted transaction's latch can touch: operands, budget, retry count. -/
theorem latchGettime_eq (s : State) : ∃ n, latchGettime s = { s with rty := n } := by
  unfold latchGettime
  split
  · exact ⟨_, rfl⟩
  · exact ⟨_, rfl⟩

/-- All a command's issue step can do: write its requester's mailbox, or be accepted as a transaction. -/
theorem exec_cases (i : Instr) (s : State) :
    (∃ w ws, exec i s = .next (setMailbox s.issuer (some (w :: ws)) s)) ∨
    (∃ t d m c n k, acceptanceError t s = none ∧
      exec i s = .next { accept t (openIssue s) with
        argDate := d, argTime := m, argCal := c, tmo := n, rty := k }) := by
  have pure_case : ∀ (op : Op) (r : Option (List Word)), exec i s = .next (answerPure op r s) →
      ∃ w ws, exec i s = .next (setMailbox s.issuer (some (w :: ws)) s) := by
    intro op r h
    obtain ⟨w, ws, hw⟩ := answerPure_eq_setMailbox op r s
    exact ⟨w, ws, by rw [h, hw]⟩
  have transaction_case : ∀ (t : Transaction) (a : Bool) (latch : State → State),
      (∀ u : State, ∃ d m c n k, latch u = { u with
        argDate := d, argTime := m, argCal := c, tmo := n, rty := k }) →
      exec i s = .next (issueTransaction t a latch s) →
      (∃ w ws, exec i s = .next (setMailbox s.issuer (some (w :: ws)) s)) ∨
      (∃ t d m c n k, acceptanceError t s = none ∧
        exec i s = .next { accept t (openIssue s) with
          argDate := d, argTime := m, argCal := c, tmo := n, rty := k }) := by
    intro t a latch hl h
    rcases issueTransaction_cases t a latch s with ⟨w, hw⟩ | ⟨-, ha, hw⟩
    · exact .inl ⟨w, [], by rw [h, hw]⟩
    · obtain ⟨d, m, c, n, k, hd⟩ := hl (accept t (openIssue s))
      exact .inr ⟨t, d, m, c, n, k, ha, by rw [h, hw, hd]⟩
  cases i with
  | gettime =>
    refine transaction_case _ _ _ (fun u => ?_) rfl
    obtain ⟨n, hn⟩ := latchGettime_eq u
    exact ⟨u.argDate, u.argTime, u.argCal, u.tmo, n, hn⟩
  | settime => exact transaction_case _ _ _ (fun u => ⟨_, _, u.argCal, u.tmo, u.rty, rfl⟩) rfl
  | getcal => exact transaction_case _ _ _ (fun u => ⟨u.argDate, u.argTime, u.argCal, u.tmo, u.rty, rfl⟩) rfl
  | setcal => exact transaction_case _ _ _ (fun u => ⟨u.argDate, u.argTime, _, _, u.rty, rfl⟩) rfl
  | config => exact transaction_case _ _ _ (fun u => ⟨u.argDate, u.argTime, u.argCal, u.tmo, u.rty, rfl⟩) rfl
  | tobcd => exact .inl (pure_case _ _ rfl)
  | frombcd => exact .inl (pure_case _ _ rfl)
  | ppb2pulses => exact .inl (pure_case _ _ rfl)
  | pulses2ppb => exact .inl (pure_case _ _ rfl)
  | calenc => exact .inl (pure_case _ _ rfl)
  | caldec => exact .inl (pure_case _ _ rfl)

/-! ### GETTIME's comparisons (43_time_transactions.md R174 to R179) -/

theorem mismatch_none (retry : TState) (s : State) (h : s.cfg.readRetryCap = none) :
    mismatch retry s = { s with ts := retry } := by
  simp only [mismatch, h]

theorem mismatch_retries (retry : TState) (s : State) (cap : Nat) (h : s.cfg.readRetryCap = some cap)
    (hc : s.rty + 1 ≤ cap) :
    mismatch retry s = { s with rty := s.rty + 1, ts := retry } := by
  simp only [mismatch, h]
  exact if_neg (Nat.not_lt.mpr hc)

theorem mismatch_ends (retry : TState) (s : State) (cap : Nat) (h : s.cfg.readRetryCap = some cap)
    (hc : cap < s.rty + 1) :
    mismatch retry s = failUnscoped .internalConsistency { s with rty := s.rty + 1 } := by
  simp only [mismatch, h]
  exact if_pos hc

theorem finishGettime_of_le (s : State) (h : s.ss.toNat ≤ s.cfg.predivS) :
    finishGettime s =
      finish .ok (timePayload s.sd s.st (wordOfInt (nanoseconds s.cfg.predivS s.ss.toNat))) s := if_pos h

theorem finishGettime_of_gt (s : State) (h : s.cfg.predivS < s.ss.toNat) :
    finishGettime s =
      { finish .ok (timePayload s.sd s.st (Config.freeNsec s.freeCtr)) s with freeCtr := s.freeCtr + 1 } :=
  if_neg (Nat.not_le.mpr h)

theorem gtT2_agrees (s : State) (h : s.counter.time = s.st) : gtT2 s = { logRead .time s with ts := .gtD2 } :=
  if_pos h

theorem gtT2_differs (s : State) (h : s.counter.time ≠ s.st) : gtT2 s = mismatch .gtT1 (logRead .time s) :=
  if_neg h

/-- With no cap an inner mismatch goes back to `GT_T1`. -/
theorem gtT2_retries (s : State) (hn : s.cfg.readRetryCap = none) (h : s.counter.time ≠ s.st) :
    gtT2 s = { logRead .time s with ts := .gtT1 } := by
  rw [gtT2_differs s h, mismatch_none _ (logRead .time s) hn]

theorem gtD2_agrees (s : State) (h : s.counter.date = s.sd) : gtD2 s = finishGettime (logRead .date s) :=
  if_pos h

theorem gtD2_differs (s : State) (h : s.counter.date ≠ s.sd) : gtD2 s = mismatch .gtD1 (logRead .date s) :=
  if_neg h

/-- With no cap an outer mismatch goes back to `GT_D1`. -/
theorem gtD2_retries (s : State) (hn : s.cfg.readRetryCap = none) (h : s.counter.date ≠ s.sd) :
    gtD2 s = { logRead .date s with ts := .gtD1 } := by
  rw [gtD2_differs s h, mismatch_none _ (logRead .date s) hn]

/-! ### The engine: its action in each state of `TS` (10_state.md R24) -/

section
variable {s : State}

theorem advance_idle (h : s.ts = .idle) : advance s = .next s := by simp only [advance, h]
theorem advance_gtD1 (h : s.ts = .gtD1) : advance s = .next (gtD1 s) := by simp only [advance, h]
theorem advance_gtT1 (h : s.ts = .gtT1) : advance s = .next (gtT1 s) := by simp only [advance, h]
theorem advance_gtSs (h : s.ts = .gtSs) : advance s = .next (gtSs s) := by simp only [advance, h]
theorem advance_gtT2 (h : s.ts = .gtT2) : advance s = .next (gtT2 s) := by simp only [advance, h]
theorem advance_gtD2 (h : s.ts = .gtD2) : advance s = .next (gtD2 s) := by simp only [advance, h]
theorem advance_wsWpoff (h : s.ts = .wsWpoff) : advance s = .next (wsWpoff s) := by simp only [advance, h]
theorem advance_wsReq (h : s.ts = .wsReq) : advance s = .next (wsReq s) := by simp only [advance, h]
theorem advance_wsPoll (h : s.ts = .wsPoll) : advance s = wsPoll s := by simp only [advance, h]
theorem advance_stWdate (h : s.ts = .stWdate) : advance s = .next (stWdate s) := by simp only [advance, h]
theorem advance_stWtime (h : s.ts = .stWtime) : advance s = .next (stWtime s) := by simp only [advance, h]
theorem advance_cfWctrl (h : s.ts = .cfWctrl) : advance s = .next (cfWctrl s) := by simp only [advance, h]
theorem advance_cfWpresc (h : s.ts = .cfWpresc) : advance s = .next (cfWpresc s) := by simp only [advance, h]
theorem advance_wsLeave (h : s.ts = .wsLeave) : advance s = .next (wsLeave s) := by simp only [advance, h]
theorem advance_wsWpon (h : s.ts = .wsWpon) : advance s = .next (wsWpon s) := by simp only [advance, h]
theorem advance_gcRd (h : s.ts = .gcRd) : advance s = .next (gcRd s) := by simp only [advance, h]
theorem advance_scPoll (h : s.ts = .scPoll) : advance s = .next (scPoll s) := by simp only [advance, h]
theorem advance_scWpoff (h : s.ts = .scWpoff) : advance s = .next (scWpoff s) := by simp only [advance, h]
theorem advance_scWr (h : s.ts = .scWr) : advance s = .next (scWr s) := by simp only [advance, h]
theorem advance_cfRctrl (h : s.ts = .cfRctrl) : advance s = .next (cfRctrl s) := by simp only [advance, h]
theorem advance_cfRpresc (h : s.ts = .cfRpresc) : advance s = .next (cfRpresc s) := by simp only [advance, h]

end

/-! ### Configuration (45_config_sequencer.md R223) -/

theorem cfRpresc_matches (s : State) (h : configMatches s.cfg s.cfFmt s.counter.presc = true) :
    cfRpresc s = finish .ok [] { logRead .presc s with configured := true } := if_pos h

theorem cfRpresc_differs (s : State) (h : configMatches s.cfg s.cfFmt s.counter.presc = false) :
    cfRpresc s = { logRead .presc s with ts := .wsWpoff } := by
  unfold cfRpresc
  rw [show s.counter.read .presc = s.counter.presc from rfl, h]
  rfl

/-! ### The polls (42_init_mode.md R154, R155; 44_calibration_transactions.md R206) -/

/-- All that `WS_POLL` can answer with a next state. -/
theorem wsPoll_cases {s t : State} (h : wsPoll s = .next t) :
    (s.counter.initActive = true ∧ ∃ body, scopeBody s.opl = some body ∧
      t = { logRead .status s with ims := .init, ts := body }) ∨
    (s.counter.initActive = false ∧ 0 < s.tmo ∧ t = { logRead .status s with tmo := s.tmo - 1 }) ∨
    (s.counter.initActive = false ∧ s.tmo = 0 ∧ t = failInScope .timeout (logRead .status s)) := by
  unfold wsPoll at h
  rw [show initActiveBit (s.counter.read .status) = s.counter.initActive from rfl] at h
  cases ha : s.counter.initActive
  · rw [ha] at h
    rcases Nat.eq_zero_or_pos s.tmo with h0 | h0
    · rw [if_neg Bool.false_ne_true, if_neg (by omega)] at h
      injection h with h
      exact .inr (.inr ⟨rfl, h0, h.symm⟩)
    · rw [if_neg Bool.false_ne_true, if_pos h0] at h
      injection h with h
      exact .inr (.inl ⟨rfl, h0, h.symm⟩)
  · rw [ha, if_pos rfl] at h
    cases hb : scopeBody s.opl with
    | none => rw [hb] at h; cases h
    | some body =>
      rw [hb] at h
      injection h with h
      exact .inl ⟨rfl, body, rfl, h.symm⟩

/-- All that `SC_POLL` can do. -/
theorem scPoll_cases (s : State) :
    (s.counter.calPending = false ∧ scPoll s = { logRead .status s with ts := .scWpoff }) ∨
    (s.counter.calPending = true ∧ 0 < s.tmo ∧ scPoll s = { logRead .status s with tmo := s.tmo - 1 }) ∨
    (s.counter.calPending = true ∧ s.tmo = 0 ∧ scPoll s = failUnscoped .timeout (logRead .status s)) := by
  unfold scPoll
  rw [show calPendingBit (s.counter.read .status) = s.counter.calPending from rfl]
  cases s.counter.calPending
  · exact .inl ⟨rfl, rfl⟩
  · rcases Nat.eq_zero_or_pos s.tmo with h0 | h0
    · exact .inr (.inr ⟨rfl, h0, by rw [if_pos rfl, if_neg (by omega)]⟩)
    · exact .inr (.inl ⟨rfl, h0, by rw [if_pos rfl, if_pos h0]⟩)

end Sys2Proof.Machine
end

