-- ==== Sys2Proof/Laws/Step.lean ====
section
/-! SUPPORT. What one step can do, said once, and runs taken apart. -/

namespace Sys2Proof.Machine

/-! ### The schedule (00_scope.md R11; log entry 1) -/

/-- Taking an event changes the schedule only. -/
theorem useEvent_eq (s : State) : ∃ i n, useEvent s = { s with inputs := i, eventCtr := n } := by
  unfold useEvent
  split
  · exact ⟨_, s.eventCtr, rfl⟩
  · exact ⟨_, s.eventCtr, rfl⟩
  · exact ⟨s.inputs, _, rfl⟩

section
variable (s : State)

@[simp] theorem useEvent_cfg : (useEvent s).cfg = s.cfg := by obtain ⟨i, n, h⟩ := useEvent_eq s; rw [h]
@[simp] theorem useEvent_ts : (useEvent s).ts = s.ts := by obtain ⟨i, n, h⟩ := useEvent_eq s; rw [h]
@[simp] theorem useEvent_opl : (useEvent s).opl = s.opl := by obtain ⟨i, n, h⟩ := useEvent_eq s; rw [h]
@[simp] theorem useEvent_ims : (useEvent s).ims = s.ims := by obtain ⟨i, n, h⟩ := useEvent_eq s; rw [h]
@[simp] theorem useEvent_lock : (useEvent s).lock = s.lock := by obtain ⟨i, n, h⟩ := useEvent_eq s; rw [h]
@[simp] theorem useEvent_owner : (useEvent s).owner = s.owner := by obtain ⟨i, n, h⟩ := useEvent_eq s; rw [h]
@[simp] theorem useEvent_configured : (useEvent s).configured = s.configured := by obtain ⟨i, n, h⟩ := useEvent_eq s; rw [h]
@[simp] theorem useEvent_wu : (useEvent s).wu = s.wu := by obtain ⟨i, n, h⟩ := useEvent_eq s; rw [h]
@[simp] theorem useEvent_err : (useEvent s).err = s.err := by obtain ⟨i, n, h⟩ := useEvent_eq s; rw [h]
@[simp] theorem useEvent_cfFmt : (useEvent s).cfFmt = s.cfFmt := by obtain ⟨i, n, h⟩ := useEvent_eq s; rw [h]
@[simp] theorem useEvent_tmo : (useEvent s).tmo = s.tmo := by obtain ⟨i, n, h⟩ := useEvent_eq s; rw [h]
@[simp] theorem useEvent_rty : (useEvent s).rty = s.rty := by obtain ⟨i, n, h⟩ := useEvent_eq s; rw [h]
@[simp] theorem useEvent_sd : (useEvent s).sd = s.sd := by obtain ⟨i, n, h⟩ := useEvent_eq s; rw [h]
@[simp] theorem useEvent_st : (useEvent s).st = s.st := by obtain ⟨i, n, h⟩ := useEvent_eq s; rw [h]
@[simp] theorem useEvent_ss : (useEvent s).ss = s.ss := by obtain ⟨i, n, h⟩ := useEvent_eq s; rw [h]
@[simp] theorem useEvent_argDate : (useEvent s).argDate = s.argDate := by obtain ⟨i, n, h⟩ := useEvent_eq s; rw [h]
@[simp] theorem useEvent_argTime : (useEvent s).argTime = s.argTime := by obtain ⟨i, n, h⟩ := useEvent_eq s; rw [h]
@[simp] theorem useEvent_argCal : (useEvent s).argCal = s.argCal := by obtain ⟨i, n, h⟩ := useEvent_eq s; rw [h]
@[simp] theorem useEvent_resp : (useEvent s).resp = s.resp := by obtain ⟨i, n, h⟩ := useEvent_eq s; rw [h]
@[simp] theorem useEvent_hist : (useEvent s).hist = s.hist := by obtain ⟨i, n, h⟩ := useEvent_eq s; rw [h]
@[simp] theorem useEvent_counter : (useEvent s).counter = s.counter := by obtain ⟨i, n, h⟩ := useEvent_eq s; rw [h]
@[simp] theorem useEvent_clkReady : (useEvent s).clkReady = s.clkReady := by obtain ⟨i, n, h⟩ := useEvent_eq s; rw [h]
@[simp] theorem useEvent_cycle : (useEvent s).cycle = s.cycle := by obtain ⟨i, n, h⟩ := useEvent_eq s; rw [h]
@[simp] theorem useEvent_issuer : (useEvent s).issuer = s.issuer := by obtain ⟨i, n, h⟩ := useEvent_eq s; rw [h]
@[simp] theorem useEvent_freeCtr : (useEvent s).freeCtr = s.freeCtr := by obtain ⟨i, n, h⟩ := useEvent_eq s; rw [h]

end

theorem nextEvent_of_cons {s : State} {e : Event} {rest : List Event} (h : s.inputs = e :: rest) :
    nextEvent s = e := by
  simp only [nextEvent, h]

theorem useEvent_of_cons {s : State} {e : Event} {rest : List Event} (h : s.inputs = e :: rest) :
    useEvent s = { s with inputs := rest } := by
  simp only [useEvent, h]

/-- An event that need not wait is taken and done. -/
theorem step_of_nextEvent {s : State} {e : Event} (h : nextEvent s = e) (hw : ownerWaits e s = false) :
    step s = act e (useEvent s) := by
  subst h
  exact if_neg (by rw [hw]; exact Bool.false_ne_true)

/-- A waiting owner leaves the step to the engine. -/
theorem step_of_ownerWaits {s : State} (h : ownerWaits (nextEvent s) s = true) : step s = advance s := if_pos h

/-- An issue that need not wait is made. -/
theorem step_of_mayIssue {s : State} {r : Nat} {p : Packet} (h : MayIssue s r p) :
    step s = issue r p (useEvent s) := by
  have hw : ownerWaits (.issue r p) s = false := by
    have hf := h.free
    cases hl : s.lock
    · simp [ownerWaits, hl]
    · simp only [ownerWaits, Bool.and_eq_false_iff, decide_eq_false_iff_not]
      exact .inr fun ho => hf ⟨hl, ho⟩
  rw [step_of_nextEvent h.next hw]
  exact if_neg (by rw [useEvent_cfg]; exact Nat.not_le.mpr h.port)

/-- All that a step with a next state can be: the engine's (`u` is `s`, or `s` with its event taken), a counter
step, a platform step, or an issue step. -/
theorem step_cases {s t : State} (h : step s = .next t) :
    (∃ u, (u = s ∨ u = useEvent s) ∧ engineMoves s = true ∧ advance u = .next t) ∨
    (∃ m, nextEvent s = .counter m ∧ t = { useEvent s with counter := counterStep m s.counter }) ∨
    (∃ b, nextEvent s = .clkReady b ∧ t = { useEvent s with clkReady := b }) ∨
    (∃ r p, MayIssue s r p ∧ issue r p (useEvent s) = .next t) := by
  by_cases hw : ownerWaits (nextEvent s) s = true
  · rw [step_of_ownerWaits hw] at h
    exact .inl ⟨s, .inl rfl, by rw [engineMoves, hw, Bool.or_true], h⟩
  · rw [step_of_nextEvent rfl (Bool.eq_false_of_not_eq_true hw)] at h
    cases he : nextEvent s with
    | advance =>
      rw [he] at h
      exact .inl ⟨_, .inr rfl, by rw [engineMoves, he]; rfl, h⟩
    | counter m =>
      rw [he] at h
      injection h with h
      exact .inr (.inl ⟨m, rfl, by rw [← h, useEvent_counter]⟩)
    | clkReady b =>
      rw [he] at h
      injection h with h
      exact .inr (.inr (.inl ⟨b, rfl, h.symm⟩))
    | issue r p =>
      rw [he] at h
      by_cases hp : s.cfg.nreq ≤ r
      · rw [act, useEvent_cfg, if_pos hp] at h
        cases h
      · refine .inr (.inr (.inr ⟨r, p, ⟨he, by omega, fun ⟨hl, ho⟩ => hw ?_⟩, ?_⟩))
        · rw [he]
          simp [ownerWaits, hl, ho]
          omega
        · rwa [act, useEvent_cfg, if_neg hp] at h

/-- An issue step answers its requester, or an accepted transaction begins. -/
theorem issue_cases {r : Nat} {p : Packet} {s t : State} (h : issue r p s = .next t) :
    (∃ w ws, t = setMailbox r (some (w :: ws)) { s with issuer := r }) ∨
    (∃ tr d m c n k, acceptanceError tr { s with issuer := r } = none ∧
      t = { accept tr (openIssue { s with issuer := r }) with
        argDate := d, argTime := m, argCal := c, tmo := n, rty := k }) := by
  unfold issue at h
  split at h
  · rename_i i _
    rcases exec_cases i { s with issuer := r } with ⟨w, ws, hw⟩ | ⟨tr, d, m, c, n, k, ha, hw⟩
    · rw [hw] at h
      injection h with h
      exact .inl ⟨w, ws, h.symm⟩
    · rw [hw] at h
      injection h with h
      exact .inr ⟨tr, d, m, c, n, k, ha, h.symm⟩
  · injection h with h
    subst h
    exact .inl ⟨_, [], answerMalformed_eq _ _⟩

/-- The engine's step, when its event comes next. -/
theorem step_of_advance {s : State} {rest : List Event} (h : s.inputs = .advance :: rest) :
    step s = advance { s with inputs := rest } := by
  rw [step_of_nextEvent (nextEvent_of_cons h) rfl, useEvent_of_cons h]
  rfl

theorem runs_zero (s : State) : runs 0 s = .next s := rfl

theorem runs_succ {s t : State} (n : Nat) (h : step s = .next t) : runs (n + 1) s = runs n t := by
  simp only [runs, h]

/-- A run whose schedule begins with the engine begins with its step. -/
theorem runs_engine {s t : State} {rest : List Event} (n : Nat) (hi : s.inputs = .advance :: rest)
    (h : advance { s with inputs := rest } = .next t) : runs (n + 1) s = runs n t :=
  runs_succ n ((step_of_advance hi).trans h)

/-- Runs compose. -/
theorem runs_add {s t : State} (m n : Nat) (h : runs m s = .next t) : runs (m + n) s = runs n t := by
  induction m generalizing s with
  | zero =>
    injection h with h
    rw [h, Nat.zero_add]
  | succ m ih =>
    rw [show m + 1 + n = (m + n) + 1 by omega]
    simp only [runs] at h ⊢
    cases hs : step s with
    | next u =>
      rw [hs] at h
      exact ih h
    | fault e => rw [hs] at h; cases h
    | refused e => rw [hs] at h; cases h

/-- What a step keeps, a run keeps. -/
theorem runs_keeps (Inv : State → Prop) (keeps : ∀ s t, Inv s → step s = .next t → Inv t) (n : Nat) :
    ∀ s t, Inv s → runs n s = .next t → Inv t := by
  induction n with
  | zero =>
    intro s t hi h
    injection h with h
    exact h ▸ hi
  | succ n ih =>
    intro s t hi h
    simp only [runs] at h
    cases hs : step s with
    | next u =>
      rw [hs] at h
      exact ih u t (keeps s u hi hs) h
    | fault e => rw [hs] at h; cases h
    | refused e => rw [hs] at h; cases h

end Sys2Proof.Machine
end

