-- ==== Sys2Proof/Laws/Endless.lean ====
section
/-! SUPPORT. The runs without end that the spec says the machine has: a GETTIME whose `TIME` keeps changing
(43_time_transactions.md R180), and a transaction whose engine never moves (70_reset_and_hazards.md R296). -/

namespace Sys2Proof.Machine

/-- What some step always keeps, a run of any length meets. -/
theorem runs_endless (Inv : State → Prop) (goes : ∀ s, Inv s → ∃ t, step s = .next t ∧ Inv t) (n : Nat) :
    ∀ s, Inv s → ∃ t, runs n s = .next t ∧ Inv t := by
  induction n with
  | zero => exact fun s h => ⟨s, rfl, h⟩
  | succ n ih =>
    intro s h
    obtain ⟨u, hu, hi⟩ := goes s h
    rw [runs_succ n hu]
    exact ih u hi

/-- A counter that changes `TIME` between every `GT_T1` and `GT_T2`. -/
def tickingCycle (a b : CounterMove) : List Event := [.counter a, .advance, .advance, .counter b, .advance]

/-- Where a GETTIME with no cap stands under `tickingCycle`: one of five places, `TS` and the events left. -/
structure Ticking (a b : CounterMove) (s : State) : Prop where
  lock : s.lock = true
  cap : s.cfg.readRetryCap = none
  cycle : s.cycle = tickingCycle a b
  active : s.counter.initActive = false
  request : s.counter.initReq = false
  place :
    (s.inputs = [] ∧ s.ts = .gtT1) ∨
    (s.inputs = [.advance, .advance, .counter b, .advance] ∧ s.ts = .gtT1 ∧ s.counter.time = a.time) ∨
    (s.inputs = [.advance, .counter b, .advance] ∧ s.ts = .gtSs ∧ s.st = a.time) ∨
    (s.inputs = [.counter b, .advance] ∧ s.ts = .gtT2 ∧ s.st = a.time) ∨
    (s.inputs = [.advance] ∧ s.ts = .gtT2 ∧ s.st = a.time ∧ s.counter.time = b.time)

/-- A counter step under no request, out of init mode: `TIME` is the move's, and init mode is not entered. -/
theorem counterStep_ticks (m : CounterMove) (c : Counter) (ha : c.initActive = false) (hr : c.initReq = false) :
    (counterStep m c).time = m.time ∧ (counterStep m c).initActive = false ∧ (counterStep m c).initReq = false := by
  refine ⟨?_, ?_, hr⟩
  · simp [counterStep, ha]
  · rw [counterStep_initActive, nextInitActive, ha, hr]
    simp

theorem step_ticking (a b : CounterMove) (hab : a.time ≠ b.time) (s : State) (h : Ticking a b s) :
    ∃ t, step s = .next t ∧ Ticking a b t := by
  obtain ⟨hl, hn, hc, ha, hr, ⟨hi, ht⟩ | ⟨hi, ht, hm⟩ | ⟨hi, ht, hs⟩ | ⟨hi, ht, hs⟩ | ⟨hi, ht, hs, hm⟩⟩ := h
  · have he : nextEvent s = .counter a := by simp [nextEvent, hi, hc, tickingCycle]
    obtain ⟨h1, h2, h3⟩ := counterStep_ticks a s.counter ha hr
    refine ⟨{ useEvent s with counter := counterStep a s.counter }, ?_, ?_⟩
    · rw [step_of_nextEvent he rfl, act, useEvent_counter]
    · exact ⟨by simpa, by simpa, by simpa, h2, h3, .inr (.inl ⟨by simp [useEvent, hi, hc, tickingCycle], by simpa, h1⟩)⟩
  · exact ⟨_, (step_of_advance hi).trans (advance_gtT1 ht),
      ⟨hl, hn, hc, ha, hr, .inr (.inr (.inl ⟨rfl, rfl, hm⟩))⟩⟩
  · exact ⟨_, (step_of_advance hi).trans (advance_gtSs ht),
      ⟨hl, hn, hc, ha, hr, .inr (.inr (.inr (.inl ⟨rfl, rfl, hs⟩)))⟩⟩
  · obtain ⟨h1, h2, h3⟩ := counterStep_ticks b s.counter ha hr
    refine ⟨{ s with inputs := [.advance], counter := counterStep b s.counter }, ?_, ?_⟩
    · rw [step_of_nextEvent (nextEvent_of_cons hi) rfl, useEvent_of_cons hi]
      rfl
    · exact ⟨hl, hn, hc, h2, h3, .inr (.inr (.inr (.inr ⟨rfl, ht, hs, h1⟩)))⟩
  · refine ⟨_, (step_of_advance hi).trans (advance_gtT2 ht), ?_⟩
    rw [gtT2_retries _ (by exact hn) (by rw [hm, hs]; exact hab.symm)]
    exact ⟨hl, hn, hc, ha, hr, .inl ⟨rfl, rfl⟩⟩

/-- R180: with the cap absent, a counter that changes `TIME` between every `GT_T1` and `GT_T2` keeps the transaction,
and the lock, for ever: there are runs of every length in which the lock is never released. -/
theorem gettime_may_never_end (a b : CounterMove) (hab : a.time ≠ b.time) (s : State) (h : Ticking a b s) (n : Nat) :
    ∃ t, runs n s = .next t ∧ t.lock = true := by
  obtain ⟨t, ht, hi⟩ := runs_endless (Ticking a b) (step_ticking a b hab) n s h
  exact ⟨t, ht, hi.lock⟩

/-- R296: a schedule that never runs the engine is a run in which a transaction never ends. -/
theorem engine_may_never_move (m : CounterMove) (s : State) (hi : s.inputs = []) (hc : s.cycle = [.counter m])
    (n : Nat) : ∃ t, runs n s = .next t ∧ t.ts = s.ts ∧ t.lock = s.lock := by
  have goes : ∀ u : State, u.inputs = [] ∧ u.cycle = [.counter m] ∧ u.ts = s.ts ∧ u.lock = s.lock →
      ∃ t, step u = .next t ∧ t.inputs = [] ∧ t.cycle = [.counter m] ∧ t.ts = s.ts ∧ t.lock = s.lock := by
    rintro u ⟨h1, h2, h3, h4⟩
    have he : nextEvent u = .counter m := by simp [nextEvent, h1, h2]
    refine ⟨{ useEvent u with counter := counterStep m u.counter }, ?_, ?_⟩
    · rw [step_of_nextEvent he rfl, act, useEvent_counter]
    · exact ⟨by simp [useEvent, h1, h2], by simpa, by simpa, by simpa⟩
  obtain ⟨t, ht, -, -, h1, h2⟩ := runs_endless _ goes n s ⟨hi, hc, rfl, rfl⟩
  exact ⟨t, ht, h1, h2⟩

end Sys2Proof.Machine
end

