-- ==== Sys2Proof/Laws/PerInstr.lean ====
section
/-! SUPPORT. A statement about every command as syntax, one lemma a constructor. -/

namespace Sys2Proof.Laws

/-- The packet of a well-formed command has as many words as its format says (30_encoding.md R94) and its opcode in
`CW0[31:28]` (R91). -/
def EncodeShape.Statement (i : Instr) : Prop :=
  i.wf = true → (encode i).length = i.op.format.words ∧ bits (encode i).cw0 31 28 = i.op.code

/-- The opcode field of a header. -/
theorem bits_header (op : Op) (arg : Nat) (h : arg < 2 ^ 28) : bits (header op arg) 31 28 = op.code := by
  have hc : op.code < 16 := by cases op <;> decide
  rw [header, bits_ofNat _ _ _ (by omega)]
  omega

theorem EncodeShape.gettime : EncodeShape.Statement .gettime := fun _ => ⟨rfl, bits_header _ _ (by decide)⟩

theorem EncodeShape.settime (year : Int) (month day : Nat) (wday : Int) (hour minute second : Nat) :
    EncodeShape.Statement (.settime year month day wday hour minute second) :=
  fun _ => ⟨rfl, bits_header _ _ (by decide)⟩

theorem EncodeShape.getcal : EncodeShape.Statement .getcal := fun _ => ⟨rfl, bits_header _ _ (by decide)⟩

theorem EncodeShape.setcal (ppb : Int) : EncodeShape.Statement (.setcal ppb) :=
  fun _ => ⟨rfl, bits_header _ _ (by decide)⟩

theorem EncodeShape.config : EncodeShape.Statement .config := fun _ => ⟨rfl, bits_header _ _ (by decide)⟩

theorem EncodeShape.tobcd (x : Nat) : EncodeShape.Statement (.tobcd x) := by
  intro h
  have hx : x ≤ 255 := of_decide_eq_true h
  exact ⟨rfl, bits_header _ _ (by omega)⟩

theorem EncodeShape.frombcd (b : Byte) : EncodeShape.Statement (.frombcd b) :=
  fun _ => ⟨rfl, bits_header _ _ (by omega)⟩

theorem EncodeShape.ppb2pulses (ppb : Int) : EncodeShape.Statement (.ppb2pulses ppb) :=
  fun _ => ⟨rfl, bits_header _ _ (by decide)⟩

theorem EncodeShape.pulses2ppb (pulses : Int) : EncodeShape.Statement (.pulses2ppb pulses) := by
  intro _
  have hf := field_lt 16 pulses
  exact ⟨rfl, bits_header _ _ (by omega)⟩

theorem EncodeShape.calenc (pulses : Int) : EncodeShape.Statement (.calenc pulses) := by
  intro _
  have hf := field_lt 16 pulses
  exact ⟨rfl, bits_header _ _ (by omega)⟩

theorem EncodeShape.caldec (flag : Bool) (magnitude : Nat) : EncodeShape.Statement (.caldec flag magnitude) := by
  intro h
  have hm : magnitude ≤ 511 := of_decide_eq_true h
  have hb := flag.toNat_le
  exact ⟨rfl, bits_header _ _ (by omega)⟩

end Sys2Proof.Laws
end

