-- ==== Sys2Proof/Machine/Asm.lean ====
section
/-! DEFINITION. The printer of 30_encoding.md R100's assembler syntax: one command, operands in decimal. -/

namespace Sys2Proof

/-- Operands separated by a comma and a space (R100). -/
def commaSeparated : List String → String
  | [] => ""
  | [x] => x
  | x :: xs => x ++ ", " ++ commaSeparated xs

/-- A mnemonic and its operands. -/
def asmLine (mnemonic : String) (ops : List String) : String :=
  match ops with
  | [] => mnemonic
  | ops => mnemonic ++ " " ++ commaSeparated ops

/-- A command in the syntax of R100, the operands in R96's order. -/
def asm : Instr → String
  | .gettime => asmLine "GETTIME" []
  | .settime year month day wday hour minute second =>
      asmLine "SETTIME" [toString year, toString month, toString day, toString wday,
        toString hour, toString minute, toString second]
  | .getcal => asmLine "GETCAL" []
  | .setcal ppb => asmLine "SETCAL" [toString ppb]
  | .config => asmLine "CONFIG" []
  | .tobcd x => asmLine "TOBCD" [toString x]
  | .frombcd b => asmLine "FROMBCD" [toString b.toNat]
  | .ppb2pulses ppb => asmLine "PPB2PULSES" [toString ppb]
  | .pulses2ppb pulses => asmLine "PULSES2PPB" [toString pulses]
  | .calenc pulses => asmLine "CALENC" [toString pulses]
  | .caldec flag magnitude => asmLine "CALDEC" [toString flag.toNat, toString magnitude]

/-- A command with its requester prefix `r:` (R100). -/
def asmIssued (r : Nat) (i : Instr) : String := toString r ++ ": " ++ asm i

end Sys2Proof
end

