-- ==== Sys2Proof/Tests/Slice0.lean ====
section
/-! SUPPORT. The model's own tests, each result from the spec (95_test_vectors.md unless said), and for every statement
with hypotheses a state and operands that meet them. -/

namespace Sys2Proof.Tests

open Sys2Proof.Machine

/-! ### Helpers -/

/-- A configured, idle block, the convention of 95_test_vectors.md section 0. -/
def ready : State := { State.reset with configured := true, clkReady := true }

/-- The same with the parameters changed. -/
def readyWith (cfg : Config) : State := { ready with cfg := cfg }

/-- A variant without smooth calibration, and one with a retry cap of 1. -/
def noCal : Config := { Config.default with hasSmoothCal := false }
def capOne : Config := { Config.default with readRetryCap := some 1 }

/-- A transaction of requester 0 at a state of `TS`, the counter where its scope needs it, only the engine moving. -/
def inFlight (ts : TState) (opl : Transaction) : State :=
  { ready with
    ts := ts
    opl := opl
    lock := true
    configured := decide (opl ≠ .config)
    wu := ts.unlocked
    ims := ts.initMode
    counter := { Counter.reset with
      date := 0x0024D109#32
      time := 0x00134530#32
      subsec := 0x80#32
      presc := 0x007F00FF#32
      initctl := if ts.requested then 1#32 else 0#32
      status := if ts.body then 1#32 else 0#32 }
    cycle := [.advance] }

/-- The next state of an outcome, or the state given. -/
def nextOr (s : State) : Host.Outcome State Fault Refusal → State
  | .next t => t
  | _ => s

/-- The state after one engine step. -/
def engineStep (s : State) : State := nextOr s (advance s)

/-- What requester 0 is answered when it hands a packet to a block. -/
def answer (p : Packet) (s : State) : Option (List Word) := (nextOr s (issue 0 p s)).mailbox 0

/-- The states of a run. -/
def trace (s : State) : Nat → State
  | 0 => s
  | k + 1 => nextOr (trace s k) (step (trace s k))

/-! ### WellFormed: an ill-formed term for each check (30_encoding.md R94, R96) -/

theorem test_year_too_big_illformed : (Instr.settime 32768 1 1 0 0 0 0).wf = false := by decide
theorem test_year_too_small_illformed : (Instr.settime (-32769) 1 1 0 0 0 0).wf = false := by decide
theorem test_month_16_illformed : (Instr.settime 0 16 1 0 0 0 0).wf = false := by decide
theorem test_day_32_illformed : (Instr.settime 0 1 32 0 0 0 0).wf = false := by decide
theorem test_wday_128_illformed : (Instr.settime 0 1 1 128 0 0 0).wf = false := by decide
theorem test_hour_32_illformed : (Instr.settime 0 1 1 0 32 0 0).wf = false := by decide
theorem test_minute_64_illformed : (Instr.settime 0 1 1 0 0 64 0).wf = false := by decide
theorem test_second_64_illformed : (Instr.settime 0 1 1 0 0 0 64).wf = false := by decide
theorem test_setcal_33_bits_illformed : (Instr.setcal 2147483648).wf = false := by decide
theorem test_tobcd_9_bits_illformed : (Instr.tobcd 256).wf = false := by decide
theorem test_ppb2pulses_33_bits_illformed : (Instr.ppb2pulses (-2147483649)).wf = false := by decide
theorem test_pulses2ppb_17_bits_illformed : (Instr.pulses2ppb 32768).wf = false := by decide
theorem test_calenc_17_bits_illformed : (Instr.calenc (-32769)).wf = false := by decide
theorem test_caldec_10_bits_illformed : (Instr.caldec true 512).wf = false := by decide

/-! ### Decoding: a word for every command, written out bit by bit from R97, R94, R96, R103 -/

theorem test_decode_gettime :
    decode ⟨0b00010000000000000000000000000000#32, []⟩ = .ok .gettime := rfl
theorem test_decode_settime :
    decode ⟨0b00100000000000000000000000000000#32,
      [0b00000000000110000000101100001001#32, 0b00000110000011010010110100011110#32]⟩ =
      .ok (.settime 24 11 9 6 13 45 30) := rfl
theorem test_decode_getcal :
    decode ⟨0b00110000000000000000000000000000#32, []⟩ = .ok .getcal := rfl
theorem test_decode_setcal :
    decode ⟨0b01000000000000000000000000000000#32, [0b11111111111111111111111000100011#32]⟩ =
      .ok (.setcal (-477)) := rfl
theorem test_decode_config :
    decode ⟨0b01010000000000000000000000000000#32, []⟩ = .ok .config := rfl
theorem test_decode_tobcd :
    decode ⟨0b10000000000000000000000001100011#32, []⟩ = .ok (.tobcd 99) := rfl
theorem test_decode_frombcd :
    decode ⟨0b10010000000000000000000001011001#32, []⟩ = .ok (.frombcd 0x59#8) := rfl
theorem test_decode_ppb2pulses :
    decode ⟨0b10100000000000000000000000000000#32, [0b00000000000000011000011010100000#32]⟩ =
      .ok (.ppb2pulses 100000) := rfl
theorem test_decode_pulses2ppb :
    decode ⟨0b10110000000000001111111000000001#32, []⟩ = .ok (.pulses2ppb (-511)) := rfl
theorem test_decode_calenc :
    decode ⟨0b11000000000000000000000001101001#32, []⟩ = .ok (.calenc 105) := rfl
theorem test_decode_caldec :
    decode ⟨0b11010000000000001000000110011100#32, []⟩ = .ok (.caldec true 412) := rfl

/-- Refused by name (vectors E1, E7, E12, K63). -/
theorem test_decode_reserved : decode ⟨0x00000000#32, []⟩ = .error .reservedOpcode := rfl
theorem test_decode_two_words : decode ⟨0x10000000#32, [0#32]⟩ = .error .wrongLength := rfl
theorem test_decode_month_16 : decode ⟨0x20000000#32, [0x00181001#32, 0x01000000#32]⟩ = .error .mustBeZero := rfl
theorem test_decode_caldec_bit_9 : decode ⟨0xD0000200#32, []⟩ = .error .mustBeZero := rfl
theorem test_decode_five_bytes : decodeBytes [0#8, 0#8, 0#8, 0x10#8, 0#8] = .error .notWords := rfl

/-- A table word: the second word's bits count on from the first's; operand words the table leaves out are zero. -/
theorem test_table_word : decodeTableWord 64 0x000186A0A0000000 = some (.ppb2pulses 100000) := by decide
theorem test_table_word_short : decodeTableWord 32 0x20000000 = some (.settime 0 0 0 0 0 0 0) := by decide

/-- The text form of R100. -/
theorem test_print_settime : asm (.settime 24 11 9 (-1) 13 45 30) = "SETTIME 24, 11, 9, -1, 13, 45, 30" := by
  decide

/-! ### The pure operations -/

/-- B4, B6. -/
theorem test_tobcd_59 : answer ⟨0x8000003B#32, []⟩ ready = some [0x80000000#32, 0x59#32] := by decide
theorem test_tobcd_100 : answer ⟨0x80000064#32, []⟩ ready = some [0x80000001#32] := by decide

/-- B10, B14. -/
theorem test_frombcd_59 : answer ⟨0x90000059#32, []⟩ ready = some [0x90000000#32, 0x3B#32] := by decide
theorem test_frombcd_ff : answer ⟨0x900000FF#32, []⟩ ready = some [0x90000000#32, 0xA5#32] := by decide

/-- K5, K13. -/
theorem test_ppb2pulses_minus_477 :
    answer ⟨0xA0000000#32, [0xFFFFFE23#32]⟩ ready = some [0xA0000000#32, 0xFFFFFFFF#32] := by decide
theorem test_ppb2pulses_above_max :
    answer ⟨0xA0000000#32, [0x0007735A#32]⟩ ready = some [0xA0000001#32] := by decide

/-- K34, K36. -/
theorem test_pulses2ppb_tie : answer ⟨0xB0000400#32, []⟩ ready = some [0xB0000000#32, 0x000EE6B3#32] := by decide
theorem test_pulses2ppb_smallest :
    answer ⟨0xB0008000#32, []⟩ ready = some [0xB0000000#32, 0xFE2329B0#32] := by decide

/-- K39, K50. -/
theorem test_calenc_1 : answer ⟨0xC0000001#32, []⟩ ready = some [0xC0000000#32, 0x81FF#32] := by decide
theorem test_calenc_minus_512 : answer ⟨0xC000FE00#32, []⟩ ready = some [0xC0000001#32] := by decide

/-- K56, K71. -/
theorem test_caldec_smallest : answer ⟨0xD00001FF#32, []⟩ ready = some [0xD0000000#32, 0xFFFFFE01#32] := by decide
theorem test_caldec_no_smooth_cal : answer ⟨0xD0000000#32, []⟩ (readyWith noCal) = some [0xD0000001#32] := by decide

/-! ### The transactions -/

/-- GT1's last step; GT8's weekday: the code 7 reads as 0. -/
theorem test_gettime_finishes :
    (engineStep { inFlight .gtD2 .gettime with sd := 0x0024D109#32, st := 0x00134530#32, ss := 128#16 }).mailbox 0 =
      some [0x10000000#32, 0x00180B09#32, 0x060D2D1E#32, 0x1D91CA36#32, 0xFFFFFFFF#32] := by decide
theorem test_gettime_sunday : translateTime 0x0000E102#32 0x00235959#32 = 0x00173B3B#32 := by decide

/-- WS1's words; 43_time_transactions.md R181: weekday 0 is written as 7. -/
theorem test_settime_latches :
    (nextOr ready (issue 1 ⟨0x20000000#32, [0x00180B09#32, 0x060D2D1E#32]⟩ ready)).argDate = 0x0024D109#32 ∧
    (nextOr ready (issue 1 ⟨0x20000000#32, [0x00180B09#32, 0x060D2D1E#32]⟩ ready)).argTime = 0x00134530#32 := by
  decide
theorem test_settime_sunday : dateWord 24 11 10 0 = 0x0024F110#32 := by decide

/-- 44_calibration_transactions.md R201's example: 105 pulses, 100136 ppb. -/
theorem test_getcal :
    (engineStep { inFlight .gcRd .getcal with
      counter := { Counter.reset with cal := 0x8197#32 } }).mailbox 0 =
      some [0x30000000#32, 0x00018728#32] := by decide
theorem test_getcal_before_config : answer ⟨0x30000000#32, []⟩ State.reset = some [0x30000004#32] := by decide

/-- R204's example: the word and the budget. -/
theorem test_setcal_latches :
    (nextOr ready (issue 1 ⟨0x40000000#32, [0x000186A0#32]⟩ ready)).argCal = 0x8197#32 ∧
    (nextOr ready (issue 1 ⟨0x40000000#32, [0x000186A0#32]⟩ ready)).tmo = 100 := by decide
theorem test_setcal_below_min : answer ⟨0x40000000#32, [0xFFF8905F#32]⟩ ready = some [0x40000001#32] := by decide

/-- 45_config_sequencer.md R220's example, and R225's word. -/
theorem test_config_matches :
    (engineStep (inFlight .cfRpresc .config)).configured = true ∧
    (engineStep (inFlight .cfRpresc .config)).mailbox 0 = some [0x50000000#32] := by decide
theorem test_config_writes_presc :
    (engineStep (inFlight .cfWpresc .config)).hist = [.wr .presc 0x007F00FF#32] := by decide

/-- R154: the flag is tested before the budget. -/
theorem test_flag_at_last_poll :
    (engineStep { inFlight .wsPoll .settime with
      counter := { Counter.reset with status := 1#32 } }).ts = .stWdate := by decide

/-- 20_memory.md R70: no rise without a request; R72: the restart from `PREDIV_S`, the reserved bits the move's. -/
theorem test_no_init_without_request :
    (counterStep ⟨0#32, 0#32, 0#32, 0xFFFFFFFF#32⟩ Counter.reset).status = 0xFFFFFFFC#32 := by decide
theorem test_subsec_restarts :
    (counterStep ⟨1#32, 1#32, 0xABCD0001#32, 0#32⟩
      { Counter.reset with status := 1#32, presc := 0x007F00FF#32 }).subsec = 0xABCD00FF#32 := by decide

/-- From reset, a table word's command is the first step's (log entry 1). -/
theorem test_fetch_word_runs :
    (nextOr State.reset (step (State.reset.withFetchWord 32 0x8000003B))).mailbox 0 =
      some [0x80000000#32, 0x59#32] := by decide

/-! ### What meets the hypotheses of the statements, one theorem a statement, named after it -/

/-- A block whose next event is requester 1 handing over a packet. -/
def handing (p : Packet) : State := { ready with inputs := [.issue 1 p] }

theorem handing_mayIssue (p : Packet) : MayIssue (handing p) 1 p :=
  ⟨rfl, show 1 < 2 by decide, fun h => Bool.false_ne_true h.1⟩

/-- The ends of every field. -/
theorem witness_DecodeInvertsEncode :
    (Instr.settime (-32768) 15 31 (-128) 31 63 63).wf = true ∧ (Instr.settime 32767 0 0 127 0 0 0).wf = true ∧
    (Instr.setcal (-2147483648)).wf = true ∧ (Instr.ppb2pulses 2147483647).wf = true ∧ (Instr.tobcd 255).wf = true ∧
    (Instr.pulses2ppb (-32768)).wf = true ∧ (Instr.calenc 32767).wf = true ∧ (Instr.caldec true 511).wf = true := by
  decide

theorem witness_EncodeInvertsDecode : decode ⟨0xD00081FF#32, []⟩ = .ok (.caldec true 511) := rfl

theorem witness_StepRunsDecodedCommand :
    MayIssue (handing ⟨0x8000003B#32, []⟩) 1 ⟨0x8000003B#32, []⟩ ∧ decode ⟨0x8000003B#32, []⟩ = .ok (.tobcd 59) :=
  ⟨handing_mayIssue _, rfl⟩

/-- One packet for each clause of `IsMalformed` (E1, E7, B8, K37, K63, K20, E16). -/
theorem witness_MalformedPacketAnswered :
    ∀ p ∈ [(⟨0x00000000#32, []⟩ : Packet), ⟨0x10000000#32, [0#32]⟩, ⟨0x80000100#32, []⟩, ⟨0xB0010000#32, []⟩,
        ⟨0xD0000200#32, []⟩, ⟨0xA0000001#32, [0#32]⟩, ⟨0x20000000#32, [0x00180101#32, 0x01000040#32]⟩],
      MayIssue (handing p) 1 p ∧ IsMalformed p := by
  intro p hp
  refine ⟨handing_mayIssue p, ?_⟩
  simp only [List.mem_cons, List.not_mem_nil, or_false] at hp
  rcases hp with rfl | rfl | rfl | rfl | rfl | rfl | rfl <;> (unfold IsMalformed; decide)

/-- A state for each clause; in the fourth the owner's event waits. -/
theorem witness_ScheduleMovesAgents :
    nextEvent { ready with inputs := [.advance] } = .advance ∧
    nextEvent { ready with inputs := [.counter ⟨0#32, 0#32, 0#32, 0#32⟩] } = .counter ⟨0#32, 0#32, 0#32, 0#32⟩ ∧
    nextEvent { ready with inputs := [.clkReady true] } = .clkReady true ∧
    (let s := { inFlight .gtD1 .gettime with inputs := [.issue 0 ⟨0x10000000#32, []⟩] }
     nextEvent s = .issue 0 ⟨0x10000000#32, []⟩ ∧ 0 < s.cfg.nreq ∧ s.lock = true ∧ s.owner = 0 ∧
       ∃ t, step s = .next t) ∧
    { ready with inputs := [.advance] }.inputs = Event.advance :: [] ∧
    (let s := { ready with cycle := [.advance] }
     s.inputs = [] ∧ s.cycle = Event.advance :: []) ∧
    (ready.inputs = [] ∧ ready.cycle = []) :=
  ⟨rfl, rfl, rfl, ⟨rfl, by decide, rfl, rfl, _, rfl⟩, rfl, ⟨rfl, rfl⟩, rfl, rfl⟩

/-- A counter that raises the flag, one that drops it, one that raises `CAL_PENDING`. -/
theorem witness_CounterKeepsContract :
    (let c := { Counter.reset with initctl := 1#32 }
     c.initActive = false ∧ (counterStep ⟨0#32, 0#32, 0#32, 1#32⟩ c).initActive = true) ∧
    (let c := { Counter.reset with status := 1#32 }
     c.initActive = true ∧ (counterStep ⟨0#32, 0#32, 0#32, 0#32⟩ c).initActive = false) ∧
    (let c := { Counter.reset with calWritten := true }
     c.calPending = false ∧ (counterStep ⟨0#32, 0#32, 0#32, 2#32⟩ c).calPending = true) := by decide

/-- A counter and what the contract lets it become: the flag falls. -/
theorem witness_CounterMayDoWhatContractAllows :
    let c := { Counter.reset with status := 1#32, presc := 0x007F00FF#32 }
    let d := { c with status := 0#32, subsec := 0xABCD00FF#32 }
    d.initctl = c.initctl ∧ d.ctrl = c.ctrl ∧ d.presc = c.presc ∧ d.cal = c.cal ∧ d.wpctl = c.wpctl ∧
    d.calWritten = c.calWritten ∧
    (c.initActive = false → d.initActive = true → c.initReq = true) ∧
    (c.initActive = true → d.initActive = false → c.initReq = false) ∧
    (c.calPending = false → d.calPending = true → c.calWritten = true) ∧
    (c.initActive = true → d.time = c.time ∧ d.date = c.date) ∧
    (c.initActive = true → d.initActive = false → bits d.subsec 15 0 = prescS c.presc) := by decide

/-- A register for each clause. -/
theorem witness_WritesStoredWhereAccepted :
    CReg.date ≠ CReg.time ∧
    (CReg.wpctl = .wpctl ∨ CReg.wpctl = .initctl) ∧ (CReg.initctl = .wpctl ∨ CReg.initctl = .initctl) ∧
    CReg.cal = .cal ∧
    (CReg.presc = .time ∨ CReg.presc = .date ∨ CReg.presc = .ctrl ∨ CReg.presc = .presc) ∧
    (CReg.status = .subsec ∨ CReg.status = .status) := by decide

theorem witness_BcdCodecLaws :
    99 ≤ 99 ∧ validBCD 0x99 = true ∧ 9 < 10 ∧ 10 ≤ 99 ∧ 63 ≤ 63 ∧ 31 ≤ 31 ∧ 15 ≤ 15 := by decide

/-- A tie (K34), and a negative numerator. -/
theorem witness_RdivNearestTiesAwayFromZero :
    0 < 2048 ∧ (2 * |(1024 * 1953125 : Int) - rdiv (1024 * 1953125) 2048 * 2048| = 2048) ∧
    ((0 : Int) ≤ 1024 * 1953125) ∧ ((-1024 * 1953125 : Int) < 0) := by decide

theorem witness_CalibrationRoundTrip :
    ((487805 : Int) ≤ 488758) ∧ ((-487804 : Int) ≤ -486851) ∧ ppbToPulses (-487805) = -512 ∧
    ((-487328 : Int) ≤ 488281) ∧ ((-511 : Int) ≤ 512) := by decide

theorem witness_CalFieldsBijective : ((-511 : Int) ≤ 512 ∧ (512 : Int) ≤ 512) ∧ (511 ≤ 511) := by decide

theorem witness_SettimeWordFields :
    (Instr.settime 99 15 31 0 31 63 63).wf = true ∧ (0 : Int) ≤ 99 ∧ (99 : Int) ≤ 99 ∧ (0 : Int) ≤ 0 ∧ (0 : Int) ≤ 6 := by
  decide

theorem witness_TranslationFields : 32767 ≤ 32767 ∧ 0 ≤ 32767 ∧ (32767 = 32767) := by decide

theorem witness_TimeWordsRoundTrip :
    (Instr.settime 0 1 1 6 23 59 59).wf = true ∧ (0 : Int) ≤ 0 ∧ (0 : Int) ≤ 99 ∧ (0 : Int) ≤ 6 ∧ (6 : Int) ≤ 6 := by
  decide

theorem witness_TobcdAnswers : 255 ≤ 255 := by decide

theorem witness_CaldecAnswers : 511 ≤ 511 := by decide

theorem witness_GettimeAccepted : ready.configured = true ∧ ready.lock = false := by decide

theorem witness_SettimeAccepted :
    ready.configured = true ∧ ready.lock = false ∧ (0 : Int) ≤ 99 ∧ (99 : Int) ≤ 99 ∧ (0 : Int) ≤ 6 ∧ (6 : Int) ≤ 6 := by
  decide

theorem witness_GetcalAccepted :
    ready.cfg.hasSmoothCal = true ∧ ready.configured = true ∧ ready.lock = false := by decide

theorem witness_SetcalAccepted :
    ready.cfg.hasSmoothCal = true ∧ (-487328 : Int) ≤ -487328 ∧ (-487328 : Int) ≤ 488281 ∧
    ready.configured = true ∧ ready.lock = false := by decide

theorem witness_ConfigAccepted :
    let s := { State.reset with clkReady := true }
    s.configured = false ∧ s.lock = false ∧ s.clkReady = true := by decide

/-- Each bound of each clause. -/
theorem witness_TransactionArgumentErrors :
    ((-1 : Int) < 0) ∧ ((99 : Int) < 100) ∧ ((6 : Int) < 7) ∧ (readyWith noCal).cfg.hasSmoothCal = false ∧
    ((-487329 : Int) < -487328) ∧ ((488281 : Int) < 488282) := by decide

/-- Each of the four commands, against an unconfigured block and a locked one. -/
theorem witness_TransactionsTurnedAway :
    (∃ year month day wday hour minute second, Instr.settime 99 1 1 6 0 0 0 = .settime year month day wday hour minute second ∧
      0 ≤ year ∧ year ≤ 99 ∧ 0 ≤ wday ∧ wday ≤ 6 ∧ 0x20000000#32 = 0x20000000#32) ∧
    (Instr.gettime = .gettime ∧ Instr.getcal = .getcal ∧ State.reset.cfg.hasSmoothCal = true) ∧
    (∃ ppb, Instr.setcal 488281 = .setcal ppb ∧ State.reset.cfg.hasSmoothCal = true ∧ -487328 ≤ ppb ∧ ppb ≤ 488281) ∧
    State.reset.configured = false ∧
    (inFlight .gtD1 .gettime).configured = true ∧ (inFlight .gtD1 .gettime).lock = true :=
  ⟨⟨_, _, _, _, _, _, _, rfl, by decide, by decide, by decide, by decide, rfl⟩, ⟨rfl, rfl, rfl⟩,
    ⟨_, rfl, rfl, by decide, by decide⟩, rfl, rfl, rfl⟩

theorem witness_ConfigTurnedAway :
    ready.configured = true ∧
    ((inFlight .cfRctrl .config).configured = false ∧ (inFlight .cfRctrl .config).lock = true) ∧
    (State.reset.configured = false ∧ State.reset.lock = false ∧ State.reset.clkReady = false) := by decide

theorem witness_PureOpsTouchOnlyMailbox :
    (Instr.tobcd 0).op = .tobcd ∧ (Instr.frombcd 0#8).op = .frombcd ∧ (Instr.ppb2pulses 0).op = .ppb2pulses ∧
    (Instr.pulses2ppb 0).op = .pulses2ppb ∧ (Instr.calenc 0).op = .calenc ∧ (Instr.caldec false 0).op = .caldec := by
  decide

/-- A state for each of the six clauses. -/
theorem witness_GettimeReadsComparesRetries :
    (inFlight .gtD1 .gettime).ts = .gtD1 ∧ (inFlight .gtT1 .gettime).ts = .gtT1 ∧
    (inFlight .gtSs .gettime).ts = .gtSs ∧
    (let s := { inFlight .gtT2 .gettime with st := 0x00134530#32 }
     s.ts = .gtT2 ∧ s.counter.time = s.st) ∧
    (let s := inFlight .gtT2 .gettime
     s.ts = .gtT2 ∧ s.counter.time ≠ s.st ∧ s.cfg.readRetryCap = none) ∧
    (let s := inFlight .gtD2 .gettime
     s.ts = .gtD2 ∧ s.counter.date ≠ s.sd ∧ s.cfg.readRetryCap = none) := by decide

theorem witness_GettimeFinishes :
    let s := { inFlight .gtD2 .gettime with sd := 0x0024D109#32, ss := 255#16 }
    s.ts = .gtD2 ∧ s.opl = .gettime ∧ s.counter.date = s.sd ∧ s.ss.toNat ≤ s.cfg.predivS := by decide

/-- GT15. -/
theorem witness_SubsecondAbovePrescaler :
    let s := { inFlight .gtD2 .gettime with sd := 0x0024D109#32, ss := 256#16 }
    s.ts = .gtD2 ∧ s.opl = .gettime ∧ s.counter.date = s.sd ∧ s.cfg.predivS < s.ss.toNat := by decide

/-- Either mismatch, without a cap, within it and above it. -/
theorem witness_RetryCapEndsGettime :
    (let s := inFlight .gtT2 .gettime
     s.cfg.readRetryCap = none ∧ s.opl = .gettime ∧ s.ts = .gtT2 ∧ s.counter.time ≠ s.st) ∧
    (let s := { inFlight .gtT2 .gettime with cfg := capOne, rty := 0 }
     s.cfg.readRetryCap = some 1 ∧ s.opl = .gettime ∧ s.ts = .gtT2 ∧ s.counter.time ≠ s.st ∧ ¬1 < s.rty + 1) ∧
    (let s := { inFlight .gtD2 .gettime with cfg := capOne, rty := 1 }
     s.cfg.readRetryCap = some 1 ∧ s.opl = .gettime ∧ s.ts = .gtD2 ∧ s.counter.date ≠ s.sd ∧ 1 < s.rty + 1) := by
  decide

/-- A counter in init mode, whatever the state of `TS`. -/
def inInitMode (ts : TState) (opl : Transaction) : State :=
  { inFlight ts opl with counter := { Counter.reset with status := 1#32 } }

/-- A state for each of the seven clauses. -/
theorem witness_ScopeStates :
    (inFlight .wsWpoff .settime).ts = .wsWpoff ∧ (inFlight .wsReq .settime).ts = .wsReq ∧
    (inFlight .wsLeave .settime).ts = .wsLeave ∧
    (let s := inInitMode .wsPoll .settime; s.ts = .wsPoll ∧ s.counter.initActive = true ∧ s.opl = .settime) ∧
    (let s := inInitMode .wsPoll .config; s.ts = .wsPoll ∧ s.counter.initActive = true ∧ s.opl = .config) ∧
    (let s := { inFlight .wsPoll .settime with tmo := 1 }
     s.ts = .wsPoll ∧ s.counter.initActive = false ∧ 0 < s.tmo) ∧
    (let s := inFlight .wsPoll .settime
     s.ts = .wsPoll ∧ s.counter.initActive = false ∧ s.tmo = 0) := by decide

/-- Each command, ending well and after a timeout. -/
theorem witness_ScopeFinishes :
    ((inFlight .wsWpon .settime).ts = .wsWpon ∧ (inFlight .wsWpon .settime).opl = .settime ∧
      (inFlight .wsWpon .settime).err = .ok) ∧
    ((inFlight .wsWpon .setcal).ts = .wsWpon ∧ (inFlight .wsWpon .setcal).opl = .setcal ∧
      (inFlight .wsWpon .setcal).err = .ok) ∧
    ((inFlight .wsWpon .config).ts = .wsWpon ∧ (inFlight .wsWpon .config).opl = .config ∧
      { inFlight .wsWpon .config with err := .timeout }.err = .timeout) := by decide

/-- A state for each of the four clauses. -/
theorem witness_BodyStatesWrite :
    ∀ s ∈ [inFlight .stWdate .settime, inFlight .stWtime .settime, inFlight .cfWctrl .config,
        inFlight .cfWpresc .config],
      s.counter.wpen = false ∧ s.counter.initActive = true ∧
      (s.ts = .stWdate ∨ s.ts = .stWtime ∨ s.ts = .cfWctrl ∨ s.ts = .cfWpresc) := by decide

/-- `CAL_PENDING` set. -/
def calPendingAt (tmo : Nat) : State :=
  { inFlight .scPoll .setcal with counter := { Counter.reset with status := 2#32, calWritten := true }, tmo := tmo }

/-- A state for each of the six clauses. -/
theorem witness_CalibrationStates :
    ((inFlight .gcRd .getcal).ts = .gcRd ∧ (inFlight .gcRd .getcal).opl = .getcal) ∧
    ((inFlight .scPoll .setcal).ts = .scPoll ∧ (inFlight .scPoll .setcal).counter.calPending = false) ∧
    ((calPendingAt 1).ts = .scPoll ∧ (calPendingAt 1).counter.calPending = true ∧ 0 < (calPendingAt 1).tmo) ∧
    ((calPendingAt 0).ts = .scPoll ∧ (calPendingAt 0).counter.calPending = true ∧ (calPendingAt 0).tmo = 0 ∧
      (calPendingAt 0).opl = .setcal) ∧
    (inFlight .scWpoff .setcal).ts = .scWpoff ∧
    ((inFlight .scWr .setcal).ts = .scWr ∧ (inFlight .scWr .setcal).counter.wpen = false) := by decide

/-- The two states, and both arms of the comparison. -/
theorem witness_ConfigCompares :
    (inFlight .cfRctrl .config).ts = .cfRctrl ∧
    (let s := inFlight .cfRpresc .config
     s.ts = .cfRpresc ∧ s.opl = .config ∧ s.cfFmt = false ∧ bits s.counter.presc 14 0 = s.cfg.predivS ∧
       bits s.counter.presc 22 16 = s.cfg.predivA) ∧
    (let s := { inFlight .cfRpresc .config with cfFmt := true }
     s.ts = .cfRpresc ∧ s.opl = .config ∧ ¬s.cfFmt = false) := by decide

theorem witness_EngineStepFrame : ∃ t, advance (inFlight .wsWpon .settime) = .next t := ⟨_, rfl⟩

/-! #### The invariants -/

theorem sequencingInv_inFlight (ts : TState) (opl : Transaction) (h : ts ≠ .idle) (ho : ts.of opl = true) :
    SequencingInv (inFlight ts opl) :=
  ⟨by simp [inFlight, h], rfl, rfl, ho, .inl rfl⟩

theorem scopeInv_inFlight (ts : TState) (opl : Transaction) (h : ts ≠ .idle) (ho : ts.of opl = true) :
    ScopeInv (inFlight ts opl) where
  seq := sequencingInv_inFlight ts opl h ho
  unprotected := fun _ => show bit 0#32 0 = false by decide
  requested := fun hr => by simp only [inFlight] at hr; simp [inFlight, hr, Counter.initReq, bit, bits]
  active := fun hb => by simp only [inFlight] at hb; simp [inFlight, hb, Counter.initActive, initActiveBit, bit, bits]

theorem mailboxInv_inFlight (ts : TState) (opl : Transaction) : MailboxInv (inFlight ts opl) :=
  ⟨rfl, fun _ => show 0 < 2 by decide, fun _ => rfl⟩

theorem witness_TransactionsAccessOnlyTheirRegisters :
    SequencingInv (inFlight .gcRd .getcal) ∧
    ∃ t, advance (inFlight .gcRd .getcal) = .next t ∧ t.hist = (inFlight .gcRd .getcal).hist ++ [.rd .cal 0#32] :=
  ⟨sequencingInv_inFlight _ _ (by decide) rfl, _, rfl, rfl⟩

theorem witness_StepKeepsScopeInv :
    ScopeInv (inFlight .stWdate .settime) ∧ ∃ t, step (inFlight .stWdate .settime) = .next t :=
  ⟨scopeInv_inFlight _ _ (by decide) rfl, _, rfl⟩

/-- The step that sets `CONFIGURED`. -/
theorem witness_StepKeepsConfiguredInv :
    ConfiguredInv (inFlight .cfRpresc .config) ∧
    ∃ t, step (inFlight .cfRpresc .config) = .next t ∧ t.configured = true where
  left :=
    { cfg_wf := rfl
      scope := scopeInv_inFlight _ _ (by decide) rfl
      held := fun h => absurd h (by decide)
      fresh := by decide
      latched := by decide
      format := by decide
      written := fun h => absurd h (by decide) }
  right := ⟨_, rfl, rfl⟩

theorem witness_StepKeepsMailboxInv :
    MailboxInv (inFlight .gtSs .gettime) ∧ ∃ t, step (inFlight .gtSs .gettime) = .next t :=
  ⟨mailboxInv_inFlight _ _, _, rfl⟩

theorem witness_BootMeetsInvariants : Config.default.wf = true ∧ Config.lowSpeedInternal.wf = true := by decide

/-- From reset: `CLK_READY` rises, CONFIG is accepted and takes its first access. -/
theorem witness_ReachableStatesMeetR33 :
    ∃ t, runs 3 (State.boot Config.default Counter.reset false
        [.clkReady true, .issue 1 ⟨0x50000000#32, []⟩, .advance] []) = .next t ∧ t.ts = .cfRpresc :=
  ⟨_, rfl, rfl⟩

theorem witness_EngineWritesAreAccepted :
    ScopeInv (inFlight .stWdate .settime) ∧
    ∃ t, advance (inFlight .stWdate .settime) = .next t ∧
      t.hist = (inFlight .stWdate .settime).hist ++ [.wr .date 0#32] :=
  ⟨scopeInv_inFlight _ _ (by decide) rfl, _, rfl, rfl⟩

theorem witness_InvariantStepsDoNotStick : ScopeInv (inFlight .wsPoll .settime) :=
  scopeInv_inFlight _ _ (by decide) rfl

theorem witness_TransactionEndAnswersOwner :
    MailboxInv (inFlight .wsWpon .settime) ∧ (inFlight .wsWpon .settime).lock = true ∧
    ∃ t, step (inFlight .wsWpon .settime) = .next t ∧ t.lock = false :=
  ⟨mailboxInv_inFlight _ _, rfl, _, rfl, rfl⟩

/-! #### Whole transactions -/

/-- GT1 as a run of five steps, the counter still. -/
theorem witness_GettimeIsTornFree :
    let s := inFlight .gtD1 .gettime
    SequencingInv (trace s 0) ∧ MailboxInv (trace s 0) ∧ (trace s 0).ts = .gtD1 ∧ IsTrace (trace s) 5 ∧
    (∀ k, k < 5 → (trace s k).ts ≠ .idle) ∧ (trace s 5).ts = .idle ∧
    (trace s 5).mailbox (trace s 0).owner =
      some (0x10000000#32 :: [0x00180B09#32, 0x060D2D1E#32, 0x1D91CA36#32, 0xFFFFFFFF#32]) ∧
    NoABA (trace s) 5 := by
  refine ⟨sequencingInv_inFlight _ _ (by decide) rfl, mailboxInv_inFlight _ _, rfl, ?_, by decide, by decide,
    by decide, ?_⟩
  · intro k hk
    interval_cases k <;> rfl
  · have still : ∀ k, k < 5 → (trace (inFlight .gtD1 .gettime) k).counter = (inFlight .gtD1 .gettime).counter := by
      decide
    intro i _ j k l hjk hkl hl _ _ _
    rw [still k (by omega), still j (by omega)]

theorem witness_QuietGettimeTakesFiveAccesses :
    let s := { inFlight .gtD1 .gettime with inputs := List.replicate 5 .advance }
    s.inputs = List.replicate 5 .advance ++ [] ∧ s.ts = .gtD1 ∧ s.opl = .gettime ∧
    bits s.counter.subsec 15 0 ≤ s.cfg.predivS := by decide

/-- R180's run without end (`gettime_may_never_end`): from reset, CONFIG and GETTIME with `TIME` changing. -/
theorem test_gettime_from_reset_never_ends :
    let a : CounterMove := ⟨1#32, 0#32, 0#32, 0#32⟩
    let b : CounterMove := ⟨2#32, 0#32, 0#32, 0#32⟩
    ∃ t, runs 5 (State.boot Config.default { Counter.reset with presc := 0x007F00FF#32 } true
        [.issue 0 ⟨0x50000000#32, []⟩, .advance, .advance, .issue 1 ⟨0x10000000#32, []⟩, .advance]
        (tickingCycle a b)) = .next t ∧
      a.time ≠ b.time ∧ Ticking a b t :=
  ⟨_, rfl, by decide, rfl, rfl, rfl, by decide, by decide, .inl ⟨rfl, rfl⟩⟩

/-- R296's (`engine_may_never_move`): a transaction in flight and nothing but counter steps. -/
theorem test_engine_never_moves :
    let m : CounterMove := ⟨0#32, 0#32, 0#32, 0#32⟩
    let s := { inFlight .wsPoll .settime with cycle := [.counter m] }
    s.inputs = [] ∧ s.cycle = [.counter m] ∧ s.lock = true := by decide

/-- A budget of 0 (WS5). -/
theorem witness_SettimeTimesOutWithinBudget :
    let s := { inFlight .wsWpoff .settime with
      cfg := { Config.default with initTimeoutUs := 0 }, inputs := List.replicate 5 .advance }
    s.inputs = List.replicate (s.cfg.initPollBudget + 5) .advance ++ [] ∧ s.ts = .wsWpoff ∧ s.opl = .settime ∧
    s.counter.initActive = false ∧ s.cfg.initPollBudget = 0 := by decide

theorem witness_SettimeWritesTheTime :
    let s := { inInitMode .wsWpoff .settime with inputs := List.replicate 7 .advance }
    s.inputs = List.replicate 7 .advance ++ [] ∧ s.ts = .wsWpoff ∧ s.opl = .settime ∧ s.err = .ok ∧
    s.counter.initActive = true := by decide

theorem witness_SetcalTimesOutWithinBudget :
    let s := { calPendingAt 2 with inputs := List.replicate 3 .advance }
    s.inputs = List.replicate (s.tmo + 1) .advance ++ [] ∧ s.ts = .scPoll ∧ s.opl = .setcal ∧
    s.counter.calPending = true := by decide

/-- P3. -/
theorem witness_ContendingSettimesOneSucceeds :
    let i := Instr.settime 0 1 1 0 0 0 0
    let j := Instr.settime 99 12 31 6 23 59 59
    let s := { ready with inputs := [.issue 0 (encode i), .issue 1 (encode j)] }
    i.wf = true ∧ j.wf = true ∧
    (∃ y mo d w h mi se, i = .settime y mo d w h mi se ∧ 0 ≤ y ∧ y ≤ 99 ∧ 0 ≤ w ∧ w ≤ 6) ∧
    (∃ y mo d w h mi se, j = .settime y mo d w h mi se ∧ 0 ≤ y ∧ y ≤ 99 ∧ 0 ≤ w ∧ w ≤ 6) ∧
    s.inputs = .issue 0 (encode i) :: .issue 1 (encode j) :: [] ∧ 0 ≠ 1 ∧ 0 < s.cfg.nreq ∧ 1 < s.cfg.nreq ∧
    s.resp.length = s.cfg.nreq ∧ s.configured = true ∧ s.lock = false :=
  ⟨rfl, rfl, ⟨_, _, _, _, _, _, _, rfl, by decide, by decide, by decide, by decide⟩,
    ⟨_, _, _, _, _, _, _, rfl, by decide, by decide, by decide, by decide⟩, rfl, by decide, by decide, by decide,
    rfl, rfl, rfl⟩

end Sys2Proof.Tests
end

section
/-! PROOF. The scope statements (spec/00_scope.md): the rounding of R9, and what the agents of R11 do and leave:
the engine's frame, its progress under the scope invariant, the issue step and the schedule. -/

namespace Sys2Proof.Machine

/-! ### Rounding (00_scope.md R9) -/

theorem rdiv_of_nonneg {n : Int} (d : Nat) (hn : 0 ≤ n) : rdiv n d = (2 * n + d) / (2 * d) := by
  lift n to Nat using hn
  simp [rdiv]

theorem rdiv_of_neg {n : Int} (d : Nat) (hn : n < 0) : rdiv n d = -((2 * -n + d) / (2 * d)) := by
  obtain ⟨m, rfl⟩ : ∃ m : Nat, n = -m := ⟨n.natAbs, by omega⟩
  rw [rdiv, if_neg (by omega)]
  simp

theorem rdiv_zero (d : Nat) (hd : 0 < d) : rdiv 0 d = 0 := by
  rw [rdiv_of_nonneg d le_rfl]
  exact Int.ediv_eq_zero_of_lt (by omega) (by omega)

theorem rdiv_neg (n : Int) {d : Nat} (hd : 0 < d) : rdiv (-n) d = -rdiv n d := by
  rcases lt_trichotomy n 0 with hn | rfl | hn
  · rw [rdiv_of_nonneg d (by omega), rdiv_of_neg d hn, neg_neg]
  · rw [neg_zero, rdiv_zero d hd, neg_zero]
  · rw [rdiv_of_neg d (by omega), rdiv_of_nonneg d hn.le, neg_neg]

/-- Rounding is floor division after adding half a divisor: it overshoots by half a divisor at most and falls short by
less than half. -/
theorem rdiv_mul_bounds_of_nonneg {n : Int} {d : Nat} (hn : 0 ≤ n) (hd : 0 < d) :
    2 * (rdiv n d * d - n) ≤ d ∧ 2 * (n - rdiv n d * d) < d := by
  have hfloor := Int.mul_ediv_add_emod (2 * n + d) (2 * d)
  have hpos := Int.emod_nonneg (2 * n + d) (show (2 * d : Int) ≠ 0 by omega)
  have hlt := Int.emod_lt_of_pos (2 * n + d) (show (0 : Int) < 2 * d by omega)
  rw [← rdiv_of_nonneg d hn, mul_assoc, mul_comm (d : Int)] at hfloor
  omega

/-- The nearest integer, and at a tie the one farther from zero. -/
theorem rdiv_nearest_of_nonneg {n : Int} {d : Nat} (hn : 0 ≤ n) (hd : 0 < d) :
    2 * |n - rdiv n d * d| ≤ d ∧ (2 * |n - rdiv n d * d| = d → |n| < |rdiv n d * d|) := by
  obtain ⟨hover, hshort⟩ := rdiv_mul_bounds_of_nonneg hn hd
  rcases abs_cases (n - rdiv n d * d) with ⟨habs, -⟩ | ⟨habs, -⟩ <;> rw [habs]
  · exact ⟨by omega, fun htie => absurd htie (by omega)⟩
  · refine ⟨by omega, fun htie => ?_⟩
    calc |n| = n := abs_of_nonneg hn
      _ < rdiv n d * d := by omega
      _ ≤ |rdiv n d * d| := le_abs_self _

/-- The same for every numerator, a negative one through its opposite. -/
theorem rdiv_nearest (n : Int) {d : Nat} (hd : 0 < d) :
    2 * |n - rdiv n d * d| ≤ d ∧ (2 * |n - rdiv n d * d| = d → |n| < |rdiv n d * d|) := by
  rcases le_total 0 n with hn | hn
  · exact rdiv_nearest_of_nonneg hn hd
  · have h := rdiv_nearest_of_nonneg (n := -n) (by omega) hd
    rwa [rdiv_neg n hd, neg_mul, ← neg_sub', abs_neg, abs_neg, abs_neg] at h

/-- Settles O13: R9's two quotients by sign, the bounds of floor division, and oddness. -/
theorem rdivNearestTiesAwayFromZero : Obligations.RdivNearestTiesAwayFromZero := by
  intro n d hd
  obtain ⟨hnear, htie⟩ := rdiv_nearest n hd
  exact ⟨rdiv_of_nonneg d, rdiv_of_neg d, hnear, htie, rdiv_neg n hd⟩

/-! ### The engine's frame (10_state.md R24, R34, R49, 20_memory.md R66) -/

/-- All a mismatch can do: retry, or fail at the cap. -/
theorem mismatch_cases (retry : TState) (s : State) :
    (∃ n, mismatch retry s = { s with rty := n, ts := retry }) ∨
    (∃ n, mismatch retry s = failUnscoped .internalConsistency { s with rty := n }) := by
  cases hcap : s.cfg.readRetryCap with
  | none => exact .inl ⟨s.rty, mismatch_none retry s hcap⟩
  | some cap =>
    rcases Nat.lt_or_ge cap (s.rty + 1) with hlt | hge
    · exact .inr ⟨_, mismatch_ends retry s cap hcap hlt⟩
    · exact .inl ⟨_, mismatch_retries retry s cap hcap hge⟩

/-- The successful end of GETTIME is a `finish`, whichever nanoseconds it gives. -/
theorem finishGettime_eq_finish (s : State) :
    ∃ payload n, finishGettime s = { finish .ok payload s with freeCtr := n } := by
  rcases Nat.lt_or_ge s.cfg.predivS s.ss.toNat with hgt | hle
  · exact ⟨_, _, finishGettime_of_gt s hgt⟩
  · exact ⟨_, s.freeCtr, finishGettime_of_le s hle⟩

/-- What no engine step writes: the parameters, `CLK_READY`, the schedule, the requester noted, the operand latches,
`OWNER` and `OPL`. A tuple, so that a state which updates none of them has the same one by `rfl`. -/
def engineUntouched (s : State) :
    Config × Bool × List Event × List Event × Nat × Nat × Word × Word × Word × Nat × Transaction :=
  (s.cfg, s.clkReady, s.inputs, s.cycle, s.eventCtr, s.issuer, s.argDate, s.argTime, s.argCal, s.owner, s.opl)

theorem engineUntouched_eq_iff (s t : State) : engineUntouched t = engineUntouched s ↔
    t.cfg = s.cfg ∧ t.clkReady = s.clkReady ∧ t.inputs = s.inputs ∧ t.cycle = s.cycle ∧
    t.eventCtr = s.eventCtr ∧ t.issuer = s.issuer ∧
    t.argDate = s.argDate ∧ t.argTime = s.argTime ∧ t.argCal = s.argCal ∧ t.owner = s.owner ∧ t.opl = s.opl := by
  simp only [engineUntouched, Prod.mk.injEq]

/-- What holds between a state and the one after the engine's step. -/
structure EngineFrame (s t : State) : Prop where
  untouched : engineUntouched t = engineUntouched s
  access : t.hist = s.hist ∨ ∃ a, t.hist = s.hist ++ [a]
  mailbox : t.resp = s.resp ∨ ∃ v, t.resp = s.resp.set s.owner v
  goes : s.ts.goesTo t.ts = true

/-- A state that makes one access and answers nobody. -/
theorem EngineFrame.of_access {s t : State} {x : TState} {a : Access} (hts : s.ts = x)
    (hu : engineUntouched t = engineUntouched s) (hh : t.hist = s.hist ++ [a]) (hr : t.resp = s.resp)
    (hg : x.goesTo t.ts = true) : EngineFrame s t :=
  ⟨hu, .inr ⟨a, hh⟩, .inl hr, hts ▸ hg⟩

/-- A state that makes one access and answers the owner. -/
theorem EngineFrame.of_answer {s t : State} {x : TState} {a : Access} {v : Option (List Word)} (hts : s.ts = x)
    (hu : engineUntouched t = engineUntouched s) (hh : t.hist = s.hist ++ [a])
    (hr : t.resp = s.resp.set s.owner v) (hg : x.goesTo t.ts = true) : EngineFrame s t :=
  ⟨hu, .inr ⟨a, hh⟩, .inr ⟨v, hr⟩, hts ▸ hg⟩

/-- A mismatch after a read, in a state from which R49 allows the retry and the end. -/
theorem mismatch_frame {s : State} {x retry : TState} (i : CReg) (hts : s.ts = x)
    (hretry : x.goesTo retry = true) (hidle : x.goesTo .idle = true) :
    EngineFrame s (mismatch retry (logRead i s)) := by
  rcases mismatch_cases retry (logRead i s) with ⟨n, hm⟩ | ⟨n, hm⟩ <;> rw [hm]
  · exact .of_access hts rfl rfl rfl hretry
  · exact .of_answer hts rfl rfl rfl hidle

theorem gtT2_frame {s : State} (hts : s.ts = .gtT2) : EngineFrame s (gtT2 s) := by
  by_cases hst : s.counter.time = s.st
  · rw [gtT2_agrees s hst]
    exact .of_access hts rfl rfl rfl rfl
  · rw [gtT2_differs s hst]
    exact mismatch_frame .time hts rfl rfl

theorem gtD2_frame {s : State} (hts : s.ts = .gtD2) : EngineFrame s (gtD2 s) := by
  by_cases hsd : s.counter.date = s.sd
  · obtain ⟨payload, n, hf⟩ := finishGettime_eq_finish (logRead .date s)
    rw [gtD2_agrees s hsd, hf]
    exact .of_answer hts rfl rfl rfl rfl
  · rw [gtD2_differs s hsd]
    exact mismatch_frame .date hts rfl rfl

/-- The bodies of the write scope are the two that R49 lets `WS_POLL` enter. -/
theorem wsPoll_goesTo_scopeBody {opl : Transaction} {body : TState} (h : scopeBody opl = some body) :
    TState.wsPoll.goesTo body = true := by
  cases opl <;> cases h <;> rfl

theorem wsPoll_frame {s t : State} (hts : s.ts = .wsPoll) (h : wsPoll s = .next t) : EngineFrame s t := by
  rcases wsPoll_cases h with ⟨-, body, hbody, rfl⟩ | ⟨-, -, rfl⟩ | ⟨-, -, rfl⟩
  · exact .of_access hts rfl rfl rfl (wsPoll_goesTo_scopeBody hbody)
  · exact .of_access hts rfl rfl rfl (by rw [logRead_ts, hts]; rfl)
  · exact .of_access hts rfl rfl rfl rfl

theorem scPoll_frame {s : State} (hts : s.ts = .scPoll) : EngineFrame s (scPoll s) := by
  rcases scPoll_cases s with ⟨-, hp⟩ | ⟨-, -, hp⟩ | ⟨-, -, hp⟩ <;> rw [hp]
  · exact .of_access hts rfl rfl rfl rfl
  · exact .of_access hts rfl rfl rfl (by rw [logRead_ts, hts]; rfl)
  · exact .of_answer hts rfl rfl rfl rfl

theorem cfRpresc_frame {s : State} (hts : s.ts = .cfRpresc) : EngineFrame s (cfRpresc s) := by
  cases hm : configMatches s.cfg s.cfFmt s.counter.presc
  · rw [cfRpresc_differs s hm]
    exact .of_access hts rfl rfl rfl rfl
  · rw [cfRpresc_matches s hm]
    exact .of_answer hts rfl rfl rfl rfl

/-- A frame of the one next state the engine has is a frame of any. -/
theorem EngineFrame.of_next {s t u : State} (h : advance s = .next t) (ha : advance s = .next u)
    (hu : EngineFrame s u) : EngineFrame s t := by
  rw [ha] at h
  cases h
  exact hu

/-- Every engine step keeps the frame, state by state of `TS`. -/
theorem advance_frame {s t : State} (h : advance s = .next t) : EngineFrame s t := by
  cases hts : s.ts with
  | idle => exact .of_next h (advance_idle hts) ⟨rfl, .inl rfl, .inl rfl, by rw [hts]; rfl⟩
  | gtD1 => exact .of_next h (advance_gtD1 hts) (.of_access hts rfl rfl rfl rfl)
  | gtT1 => exact .of_next h (advance_gtT1 hts) (.of_access hts rfl rfl rfl rfl)
  | gtSs => exact .of_next h (advance_gtSs hts) (.of_access hts rfl rfl rfl rfl)
  | gtT2 => exact .of_next h (advance_gtT2 hts) (gtT2_frame hts)
  | gtD2 => exact .of_next h (advance_gtD2 hts) (gtD2_frame hts)
  | wsWpoff => exact .of_next h (advance_wsWpoff hts) (.of_access hts rfl rfl rfl rfl)
  | wsReq => exact .of_next h (advance_wsReq hts) (.of_access hts rfl rfl rfl rfl)
  | wsPoll => exact wsPoll_frame hts (advance_wsPoll hts ▸ h)
  | stWdate => exact .of_next h (advance_stWdate hts) (.of_access hts rfl rfl rfl rfl)
  | stWtime => exact .of_next h (advance_stWtime hts) (.of_access hts rfl rfl rfl rfl)
  | cfWctrl => exact .of_next h (advance_cfWctrl hts) (.of_access hts rfl rfl rfl rfl)
  | cfWpresc => exact .of_next h (advance_cfWpresc hts) (.of_access hts rfl rfl rfl rfl)
  | wsLeave => exact .of_next h (advance_wsLeave hts) (.of_access hts rfl rfl rfl rfl)
  | wsWpon => exact .of_next h (advance_wsWpon hts) (.of_answer hts rfl rfl rfl rfl)
  | gcRd => exact .of_next h (advance_gcRd hts) (.of_answer hts rfl rfl rfl rfl)
  | scPoll => exact .of_next h (advance_scPoll hts) (scPoll_frame hts)
  | scWpoff => exact .of_next h (advance_scWpoff hts) (.of_access hts rfl rfl rfl rfl)
  | scWr => exact .of_next h (advance_scWr hts) (.of_access hts rfl rfl rfl rfl)
  | cfRctrl => exact .of_next h (advance_cfRctrl hts) (.of_access hts rfl rfl rfl rfl)
  | cfRpresc => exact .of_next h (advance_cfRpresc hts) (cfRpresc_frame hts)

/-- Whatever the engine answers, it answers the owner: every other mailbox stays. -/
theorem EngineFrame.mailbox_other {s t : State} (h : EngineFrame s t) {r : Nat} (hr : r ≠ s.owner) :
    t.mailbox r = s.mailbox r := by
  rcases h.mailbox with hsame | ⟨v, hset⟩
  · rw [State.mailbox, hsame, State.mailbox]
  · rw [← mailbox_setMailbox_other s.owner r v s hr, State.mailbox, hset, State.mailbox, setMailbox_resp]

/-- Settles O44: the frame of every state of `TS`, read field by field. -/
theorem engineStepFrame : Obligations.EngineStepFrame := by
  intro s t h
  have hf := advance_frame h
  obtain ⟨hcfg, hclk, hin, hcyc, hctr, hiss, hdate, htime, hcal, hown, hopl⟩ :=
    (engineUntouched_eq_iff s t).mp hf.untouched
  exact ⟨hf.access, fun _ => hf.mailbox_other, hcfg, hclk, hin, hcyc, hctr, hiss, hdate, htime, hcal, hown, hopl,
    hf.goes⟩

/-! ### Progress (10_state.md R49; log entries 12 and 18) -/

/-- `WS_POLL` sticks only where the transaction supplies no body. -/
theorem wsPoll_progress {s : State} {body : TState} (h : scopeBody s.opl = some body) :
    ∃ t, wsPoll s = .next t := by
  unfold wsPoll
  rw [h]
  split_ifs <;> exact ⟨_, rfl⟩

/-- The two transactions that pass through `WS_POLL` supply a body. -/
theorem scopeBody_of_wsPoll {opl : Transaction} (h : TState.wsPoll.of opl = true) :
    ∃ body, scopeBody opl = some body := by
  cases opl with
  | settime => exact ⟨_, rfl⟩
  | config => exact ⟨_, rfl⟩
  | gettime | getcal | setcal => cases h

/-- The engine has a next state wherever `OPL` is a transaction that passes through `TS`. -/
theorem advance_progress {s : State} (h : s.ts.of s.opl = true) : ∃ t, advance s = .next t := by
  cases hts : s.ts with
  | wsPoll =>
    rw [hts] at h
    obtain ⟨body, hbody⟩ := scopeBody_of_wsPoll h
    rw [advance_wsPoll hts]
    exact wsPoll_progress hbody
  | _ => exact ⟨_, by rw [advance, hts]⟩

theorem exec_progress (i : Instr) (s : State) : ∃ t, exec i s = .next t := by
  rcases exec_cases i s with ⟨_, _, h⟩ | ⟨_, _, _, _, _, _, -, h⟩ <;> exact ⟨_, h⟩

/-- An issue step has a next state, its packet well-formed or not. -/
theorem issue_progress (r : Nat) (p : Packet) (s : State) : ∃ t, issue r p s = .next t := by
  cases hd : decode p with
  | ok i => simpa only [issue, hd] using exec_progress i { s with issuer := r }
  | error e => exact ⟨_, by rw [issue, hd]⟩

/-- Settles O53: the engine by the invariant's clause on `OPL`, every other agent by its step. -/
theorem invariantStepsDoNotStick : Obligations.InvariantStepsDoNotStick := by
  intro s hs
  have hopl : s.ts.of s.opl = true := hs.seq.opl
  cases hw : ownerWaits (nextEvent s) s with
  | true =>
    rw [step_of_ownerWaits hw]
    exact .inl (advance_progress hopl)
  | false =>
    rw [step_of_nextEvent rfl hw]
    cases he : nextEvent s with
    | advance => exact .inl (advance_progress (by simpa using hopl))
    | counter m => exact .inl ⟨_, rfl⟩
    | clkReady b => exact .inl ⟨_, rfl⟩
    | issue r p =>
      rcases Nat.lt_or_ge r s.cfg.nreq with hr | hr
      · rw [act, useEvent_cfg, if_neg (Nat.not_le.mpr hr)]
        exact .inl (issue_progress r p _)
      · exact .inr ⟨r, p, rfl, hr⟩

/-! ### The issue step and the schedule (00_scope.md R11, 30_encoding.md R92; log entries 1 and 2) -/

theorem issue_of_decode {p : Packet} {i : Instr} (r : Nat) (s : State) (h : decode p = .ok i) :
    issue r p s = exec i { s with issuer := r } := by
  rw [issue, h]

/-- Settles O6: an issue that need not wait is made, and its packet is decoded. -/
theorem stepRunsDecodedCommand : Obligations.StepRunsDecodedCommand := by
  intro s r p i hmay hdec
  rw [step_of_mayIssue hmay, issue_of_decode r _ hdec]

theorem ownerWaits_of_owner {s : State} {r : Nat} (p : Packet) (hr : r < s.cfg.nreq) (hl : s.lock = true)
    (ho : s.owner = r) : ownerWaits (.issue r p) s = true := by
  simp [ownerWaits, hr, hl, ho]

/-- The engine's step leaves the schedule, so the event that was next is next again. -/
theorem nextEvent_advance {s t : State} (h : advance s = .next t) : nextEvent t = nextEvent s := by
  obtain ⟨hcfg, -, hin, hcyc, hctr, -⟩ := (engineUntouched_eq_iff s t).mp (advance_frame h).untouched
  simp only [nextEvent, freeEvent, hcfg, hin, hcyc, hctr]

theorem nextEvent_of_cycle {s : State} {e : Event} {rest : List Event} (hi : s.inputs = [])
    (hc : s.cycle = e :: rest) : nextEvent s = e := by
  simp only [nextEvent, hi, hc]

theorem useEvent_of_cycle {s : State} {e : Event} {rest : List Event} (hi : s.inputs = [])
    (hc : s.cycle = e :: rest) : useEvent s = { s with inputs := rest } := by
  simp only [useEvent, hi, hc]

theorem nextEvent_of_free {s : State} (hi : s.inputs = []) (hc : s.cycle = []) : nextEvent s = freeEvent s := by
  simp only [nextEvent, hi, hc]

theorem useEvent_of_free {s : State} (hi : s.inputs = []) (hc : s.cycle = []) :
    useEvent s = { s with eventCtr := s.eventCtr + 1 } := by
  simp only [useEvent, hi, hc]

/-- Settles O8: the step of each agent, the waiting owner, and the three sources of events. -/
theorem scheduleMovesAgents : Obligations.ScheduleMovesAgents := by
  intro s
  refine ⟨?engine, ?counter, ?platform, ?owner, ?inputs, ?cycle, ?free⟩
  case engine => exact fun he => step_of_nextEvent he rfl
  case counter =>
    intro m he
    rw [step_of_nextEvent he rfl, act, useEvent_counter]
  case platform => exact fun b he => step_of_nextEvent he rfl
  case owner =>
    intro r p he hr hl ho
    have hstep : step s = advance s := step_of_ownerWaits (he ▸ ownerWaits_of_owner p hr hl ho)
    exact ⟨hstep, fun t ht => (nextEvent_advance (hstep ▸ ht)).trans he⟩
  case inputs => exact fun e rest hi => ⟨nextEvent_of_cons hi, useEvent_of_cons hi⟩
  case cycle => exact fun e rest hi hc => ⟨nextEvent_of_cycle hi hc, useEvent_of_cycle hi hc⟩
  case free =>
    intro hi hc
    refine ⟨useEvent_of_free hi hc, ?_⟩
    rw [nextEvent_of_free hi hc, freeEvent]
    cases Config.freeEvent s.eventCtr <;> rfl

end Sys2Proof.Machine
end

section
/-! PROOF. The state statements (spec/10_state.md): the words of SETTIME, the invariants of scope and mailboxes under
every agent's step, R33 and the reset state, and the accesses R46 gives each transaction. -/

namespace Sys2Proof.Machine

/-! ### The words of SETTIME (10_state.md R37, R38; 43_time_transactions.md R182) -/

theorem toBCD_le {x y : Nat} (h : x ≤ y) : toBCD x ≤ toBCD y := by
  simp only [toBCD]
  omega

theorem wdayToHw_lt {w : Int} (h0 : 0 ≤ w) (h6 : w ≤ 6) : wdayToHw w < 8 := by
  unfold wdayToHw
  split_ifs <;> omega

/-- The fields of `DATE` stand side by side, so each comes back whole and the bits between them are 0. -/
theorem dateWord_fields {year : Int} {month day : Nat} {wday : Int} (hy : toBCD year.toNat < 2 ^ 8)
    (hw : wdayToHw wday < 2 ^ 3) (hm : toBCD month < 2 ^ 5) (hd : toBCD day < 2 ^ 6) :
    bits (dateWord year month day wday) 31 24 = 0 ∧
    bits (dateWord year month day wday) 23 16 = toBCD year.toNat ∧
    bits (dateWord year month day wday) 15 13 = wdayToHw wday ∧
    bits (dateWord year month day wday) 12 8 = toBCD month ∧
    bits (dateWord year month day wday) 7 6 = 0 ∧
    bits (dateWord year month day wday) 5 0 = toBCD day := by
  simp only [dateWord]
  refine ⟨?_, ?_, ?_, ?_, ?_, ?_⟩ <;> rw [bits_ofNat _ _ _ (by omega)] <;> omega

/-- The same for `TIME`. -/
theorem timeWord_fields {hour minute second : Nat} (hh : toBCD hour < 2 ^ 6) (hm : toBCD minute < 2 ^ 7)
    (hs : toBCD second < 2 ^ 7) :
    bits (timeWord hour minute second) 31 22 = 0 ∧
    bits (timeWord hour minute second) 21 16 = toBCD hour ∧
    bits (timeWord hour minute second) 15 15 = 0 ∧
    bits (timeWord hour minute second) 14 8 = toBCD minute ∧
    bits (timeWord hour minute second) 7 7 = 0 ∧
    bits (timeWord hour minute second) 6 0 = toBCD second := by
  simp only [timeWord]
  refine ⟨?_, ?_, ?_, ?_, ?_, ?_⟩ <;> rw [bits_ofNat _ _ _ (by omega)] <;> omega

/-- Settles O16: `toBCD` is monotone, so each operand's range bounds its byte by that of the range's end, and every
byte fits its field. -/
theorem settimeWordFields : Obligations.SettimeWordFields := by
  intro year month day wday hour minute second hwf hy0 hy99 hw0 hw6
  simp only [Instr.wf, Bool.and_eq_true, decide_eq_true_eq] at hwf
  obtain ⟨⟨⟨⟨⟨⟨-, hmonth⟩, hday⟩, -⟩, hhour⟩, hminute⟩, hsecond⟩ := hwf
  have hyear : toBCD year.toNat < 2 ^ 8 := (toBCD_le (show year.toNat ≤ 99 by omega)).trans_lt (by decide)
  obtain ⟨hzero, hYear, hWday, hMonth, hgap, hDay⟩ := dateWord_fields hyear (wdayToHw_lt hw0 hw6)
    ((toBCD_le hmonth).trans_lt (by decide)) ((toBCD_le hday).trans_lt (by decide))
  exact ⟨hzero, hYear, hWday, hMonth, hgap, hDay, timeWord_fields ((toBCD_le hhour).trans_lt (by decide))
    ((toBCD_le hminute).trans_lt (by decide)) ((toBCD_le hsecond).trans_lt (by decide))⟩

/-! ### The scope invariant at a state of `TS` (10_state.md R33; 42_init_mode.md R158) -/

/-- The states in which `ERR` may hold the timeout of `WS_POLL` (42_init_mode.md R155). -/
def TState.afterTimeout : TState → Bool
  | .idle | .wsLeave | .wsWpon => true
  | _ => false

/-- The clauses of `ScopeInv` for a state whose `TS` is `x`. Each is a clause on one register, so that a step which
leaves the register and the row of `x` leaves the clause as it is. -/
structure ScopeAt (x : TState) (s : State) : Prop where
  lock : s.lock = !decide (x = .idle)
  wu : s.wu = x.unlocked
  ims : s.ims = x.initMode
  opl : x.of s.opl = true
  err : s.err = .ok ∨ (s.err = .timeout ∧ x.afterTimeout = true)
  unprotected : x.unlocked = true → s.counter.wpen = false
  requested : x.requested = true → s.counter.initReq = true
  active : x.body = true → s.counter.initActive = true

theorem TState.afterTimeout_iff (x : TState) :
    x.afterTimeout = true ↔ x = .idle ∨ x = .wsLeave ∨ x = .wsWpon := by
  cases x <;> decide

theorem ScopeInv.scopeAt {s : State} {x : TState} (h : ScopeInv s) (hx : s.ts = x) : ScopeAt x s := by
  subst hx
  obtain ⟨⟨hlock, hwu, hims, hopl, herr⟩, hun, hreq, hact⟩ := h
  exact ⟨hlock, hwu, hims, hopl, by rwa [TState.afterTimeout_iff], hwu ▸ hun, hreq, hact⟩

theorem ScopeAt.scopeInv {s : State} {x : TState} (h : ScopeAt x s) (hx : s.ts = x) : ScopeInv s := by
  subst hx
  obtain ⟨hlock, hwu, hims, hopl, herr, hun, hreq, hact⟩ := h
  exact ⟨⟨hlock, hwu, hims, hopl, by rwa [← TState.afterTimeout_iff]⟩, hwu ▸ hun, hreq, hact⟩

/-! ### The flags the scope rests on, under a write and under a counter step (20_memory.md R68 to R70) -/

theorem Counter.read_write_other (c : Counter) {i j : CReg} (v : Word) (h : j ≠ i) :
    (c.write i v).read j = c.read j := by
  unfold Counter.write
  split
  · exact c.read_put_other i j v h
  · rfl

theorem Counter.wpen_write (c : Counter) {i : CReg} (v : Word) (h : i ≠ .wpctl) : (c.write i v).wpen = c.wpen :=
  congrArg (bit · 0) (c.read_write_other v h.symm)

theorem Counter.initReq_write (c : Counter) {i : CReg} (v : Word) (h : i ≠ .initctl) :
    (c.write i v).initReq = c.initReq :=
  congrArg (bit · 0) (c.read_write_other v h.symm)

/-- No write reaches `INIT_ACTIVE`: one of `STATUS` is refused. -/
theorem Counter.initActive_write (c : Counter) (i : CReg) (v : Word) : (c.write i v).initActive = c.initActive := by
  by_cases h : i = .status
  · rw [h, c.write_of_refused .status v rfl]
  · exact congrArg initActiveBit (c.read_write_other v (Ne.symm h))

/-- `INIT_ACTIVE` does not fall under a standing request. -/
theorem nextInitActive_of_initReq {c : Counter} (want : Bool) (ha : c.initActive = true) (hr : c.initReq = true) :
    nextInitActive c want = true := by
  rw [nextInitActive, if_pos ha, hr, Bool.or_true]

/-! ### The scope invariant under each agent's step (O46) -/

theorem TState.requested_of_body (x : TState) : x.body = true → x.requested = true := by
  cases x <;> decide

section
variable {s : State} {x : TState}

/-- Outside the states after a timeout `ERR` is `OK`. -/
theorem ScopeAt.err_ok (h : ScopeAt x s) (hx : x.afterTimeout = false) : s.err = .ok := by
  rcases h.err with hok | ⟨-, ht⟩
  · exact hok
  · exact absurd ht (by rw [hx]; exact Bool.false_ne_true)

/-- A write of a calendar, configuration or calibration register leaves the clauses. -/
theorem ScopeAt.cwrite (h : ScopeAt x s) {i : CReg} (v : Word) (hw : i ≠ .wpctl) (hi : i ≠ .initctl) :
    ScopeAt x (cwrite i v s) :=
  { h with
    unprotected := fun hx => (s.counter.wpen_write v hw).trans (h.unprotected hx)
    requested := fun hx => (s.counter.initReq_write v hi).trans (h.requested hx)
    active := fun hx => (s.counter.initActive_write i v).trans (h.active hx) }

theorem ScopeAt.counterStep (h : ScopeAt x s) (m : CounterMove) :
    ScopeAt x { s with counter := counterStep m s.counter } :=
  { h with
    active := fun hx => (counterStep_initActive m s.counter).trans
      (nextInitActive_of_initReq _ (h.active hx) (h.requested (x.requested_of_body hx))) }

/-- A transaction ends in `IDLE` with protection restored. -/
theorem scopeAt_finish (e : Status) (p : List Word) (hwu : s.wu = false) (hims : s.ims = .normal)
    (herr : s.err = .ok ∨ s.err = .timeout) : ScopeAt .idle (finish e p s) where
  lock := rfl
  wu := hwu
  ims := hims
  opl := rfl
  err := herr.imp_right fun h => ⟨h, rfl⟩
  unprotected := nofun
  requested := nofun
  active := nofun

/-- An end outside the scope, where protection was never off. -/
theorem ScopeAt.finish (h : ScopeAt x s) (hwu : x.unlocked = false) (hims : x.initMode = .normal) (e : Status)
    (p : List Word) : ScopeAt .idle (finish e p s) :=
  scopeAt_finish e p (h.wu.trans hwu) (h.ims.trans hims) (h.err.imp_right And.left)

/-- A read leaves every clause. -/
theorem ScopeAt.logRead (h : ScopeAt x s) (i : CReg) : ScopeAt x (logRead i s) := { h with }

theorem ScopeAt.gtD1 (h : ScopeAt .gtD1 s) : ScopeInv (gtD1 s) := ScopeAt.scopeInv (x := .gtT1) { h with } rfl
theorem ScopeAt.gtT1 (h : ScopeAt .gtT1 s) : ScopeInv (gtT1 s) := ScopeAt.scopeInv (x := .gtSs) { h with } rfl
theorem ScopeAt.gtSs (h : ScopeAt .gtSs s) : ScopeInv (gtSs s) := ScopeAt.scopeInv (x := .gtT2) { h with } rfl

/-- A mismatch of GETTIME, whichever state `x` it retries at. -/
theorem ScopeAt.mismatch (h : ScopeAt x s) (hwu : x.unlocked = false) (hims : x.initMode = .normal) :
    ScopeInv (mismatch x s) := by
  rcases mismatch_cases x s with ⟨n, hm⟩ | ⟨n, hm⟩ <;> rw [hm]
  · exact ScopeAt.scopeInv (x := x) { h with } rfl
  · have hn : ScopeAt x { s with rty := n } := { h with }
    exact (hn.finish hwu hims .internalConsistency []).scopeInv rfl

theorem ScopeAt.gtT2 (h : ScopeAt .gtT2 s) : ScopeInv (gtT2 s) := by
  by_cases hst : s.counter.time = s.st
  · rw [gtT2_agrees s hst]
    exact ScopeAt.scopeInv (x := .gtD2) { h with } rfl
  · rw [gtT2_differs s hst]
    exact ScopeAt.mismatch (x := .gtT1) { h with } rfl rfl

theorem ScopeAt.gtD2 (h : ScopeAt .gtD2 s) : ScopeInv (gtD2 s) := by
  by_cases hsd : s.counter.date = s.sd
  · obtain ⟨p, n, hf⟩ := finishGettime_eq_finish (Machine.logRead .date s)
    rw [gtD2_agrees s hsd, hf]
    exact ScopeAt.scopeInv (x := .idle) { h.finish rfl rfl .ok p with } rfl
  · rw [gtD2_differs s hsd]
    exact ScopeAt.mismatch (x := .gtD1) { h with } rfl rfl

theorem ScopeAt.wsWpoff (h : ScopeAt .wsWpoff s) : ScopeInv (wsWpoff s) :=
  ScopeAt.scopeInv (x := .wsReq)
    { h with wu := rfl, unprotected := fun _ => show bit 0x00000000#32 0 = false by decide } rfl

theorem ScopeAt.wsReq (h : ScopeAt .wsReq s) : ScopeInv (wsReq s) :=
  ScopeAt.scopeInv (x := .wsPoll)
    { h with ims := rfl, requested := fun _ => show bit 0x00000001#32 0 = true by decide } rfl

/-- `WS_POLL` enters the body of its transaction only on reading `INIT_ACTIVE` = 1. -/
theorem ScopeAt.scopeBody (h : ScopeAt .wsPoll s) (ha : s.counter.initActive = true) {body : TState}
    (hb : scopeBody s.opl = some body) :
    ScopeAt body { Machine.logRead .status s with ims := .init, ts := body } := by
  cases hopl : s.opl with
  | settime | config =>
    rw [hopl] at hb
    cases hb
    exact { h with ims := rfl, opl := decide_eq_true hopl, active := fun _ => ha }
  | gettime | getcal | setcal =>
    rw [hopl] at hb
    cases hb

theorem ScopeAt.wsPoll (h : ScopeAt .wsPoll s) (hts : s.ts = .wsPoll) {t : State} (ht : wsPoll s = .next t) :
    ScopeInv t := by
  rcases wsPoll_cases ht with ⟨ha, body, hb, rfl⟩ | ⟨-, -, rfl⟩ | ⟨-, -, rfl⟩
  · exact (h.scopeBody ha hb).scopeInv rfl
  · exact ScopeAt.scopeInv (x := .wsPoll) { h with } hts
  · exact ScopeAt.scopeInv (x := .wsLeave) { h with ims := rfl, err := .inr ⟨rfl, rfl⟩, active := nofun } rfl

theorem ScopeAt.stWdate (h : ScopeAt .stWdate s) : ScopeInv (stWdate s) :=
  ScopeAt.scopeInv (x := .stWtime) { h.cwrite (i := .date) s.argDate nofun nofun with } rfl

theorem ScopeAt.stWtime (h : ScopeAt .stWtime s) : ScopeInv (stWtime s) :=
  ScopeAt.scopeInv (x := .wsLeave)
    { h.cwrite (i := .time) s.argTime nofun nofun with
      ims := rfl
      opl := Bool.or_eq_true_iff.mpr (.inl h.opl)
      err := .inl (h.err_ok rfl)
      active := nofun } rfl

theorem ScopeAt.cfWctrl (h : ScopeAt .cfWctrl s) : ScopeInv (cfWctrl s) :=
  ScopeAt.scopeInv (x := .cfWpresc) { h.cwrite (i := .ctrl) (ctrlWord targetFmt) nofun nofun with } rfl

theorem ScopeAt.cfWpresc (h : ScopeAt .cfWpresc s) : ScopeInv (cfWpresc s) :=
  ScopeAt.scopeInv (x := .wsLeave)
    { h.cwrite (i := .presc) (prescWord s.cfg.predivA s.cfg.predivS) nofun nofun with
      ims := rfl
      opl := Bool.or_eq_true_iff.mpr (.inr h.opl)
      err := .inl (h.err_ok rfl)
      active := nofun } rfl

theorem ScopeAt.wsLeave (h : ScopeAt .wsLeave s) : ScopeInv (wsLeave s) :=
  ScopeAt.scopeInv (x := .wsWpon)
    { h with ims := rfl, opl := Bool.or_eq_true_iff.mpr (.inl h.opl), requested := nofun } rfl

theorem ScopeAt.wsWpon (h : ScopeAt .wsWpon s) : ScopeInv (wsWpon s) :=
  ScopeAt.scopeInv (x := .idle) (scopeAt_finish _ _ rfl h.ims (h.err.imp_right And.left)) rfl

theorem ScopeAt.gcRd (h : ScopeAt .gcRd s) : ScopeInv (gcRd s) :=
  ((h.logRead .cal).finish rfl rfl _ _).scopeInv rfl

theorem ScopeAt.scPoll (h : ScopeAt .scPoll s) (hts : s.ts = .scPoll) : ScopeInv (scPoll s) := by
  rcases scPoll_cases s with ⟨-, hp⟩ | ⟨-, -, hp⟩ | ⟨-, -, hp⟩ <;> rw [hp]
  · exact ScopeAt.scopeInv (x := .scWpoff) { h with } rfl
  · exact ScopeAt.scopeInv (x := .scPoll) { h with } hts
  · exact ((h.logRead .status).finish rfl rfl .timeout []).scopeInv rfl

theorem ScopeAt.scWpoff (h : ScopeAt .scWpoff s) : ScopeInv (scWpoff s) :=
  ScopeAt.scopeInv (x := .scWr)
    { h with wu := rfl, unprotected := fun _ => show bit 0x00000000#32 0 = false by decide } rfl

theorem ScopeAt.scWr (h : ScopeAt .scWr s) : ScopeInv (scWr s) :=
  ScopeAt.scopeInv (x := .wsWpon)
    { h.cwrite (i := .cal) s.argCal nofun nofun with
      opl := Bool.or_eq_true_iff.mpr (.inr h.opl)
      err := .inl (h.err_ok rfl) } rfl

theorem ScopeAt.cfRctrl (h : ScopeAt .cfRctrl s) : ScopeInv (cfRctrl s) :=
  ScopeAt.scopeInv (x := .cfRpresc) { h with } rfl

theorem ScopeAt.cfRpresc (h : ScopeAt .cfRpresc s) : ScopeInv (cfRpresc s) := by
  cases hm : configMatches s.cfg s.cfFmt s.counter.presc
  · rw [cfRpresc_differs s hm]
    exact ScopeAt.scopeInv (x := .wsWpoff) { h with opl := Bool.or_eq_true_iff.mpr (.inr h.opl) } rfl
  · rw [cfRpresc_matches s hm]
    exact ScopeAt.scopeInv (x := .idle) { h.finish rfl rfl .ok [] with } rfl

/-- The engine has one next state: what holds of the one its state of `TS` names holds of any. -/
theorem of_advance {P : State → Prop} {t u : State} (h : advance s = .next t) (ha : advance s = .next u)
    (hu : P u) : P t := by
  rw [ha] at h
  cases h
  exact hu

/-- Every engine step keeps the scope invariant: what a state of `TS` writes of the sequencing registers and of the
counter is what the row of the next one asks for. -/
theorem advance_keeps_scopeInv {t : State} (hs : ScopeInv s) (h : advance s = .next t) : ScopeInv t := by
  cases hts : s.ts with
  | idle => exact of_advance h (advance_idle hts) hs
  | gtD1 => exact of_advance h (advance_gtD1 hts) (hs.scopeAt hts).gtD1
  | gtT1 => exact of_advance h (advance_gtT1 hts) (hs.scopeAt hts).gtT1
  | gtSs => exact of_advance h (advance_gtSs hts) (hs.scopeAt hts).gtSs
  | gtT2 => exact of_advance h (advance_gtT2 hts) (hs.scopeAt hts).gtT2
  | gtD2 => exact of_advance h (advance_gtD2 hts) (hs.scopeAt hts).gtD2
  | wsWpoff => exact of_advance h (advance_wsWpoff hts) (hs.scopeAt hts).wsWpoff
  | wsReq => exact of_advance h (advance_wsReq hts) (hs.scopeAt hts).wsReq
  | wsPoll => exact (hs.scopeAt hts).wsPoll hts (advance_wsPoll hts ▸ h)
  | stWdate => exact of_advance h (advance_stWdate hts) (hs.scopeAt hts).stWdate
  | stWtime => exact of_advance h (advance_stWtime hts) (hs.scopeAt hts).stWtime
  | cfWctrl => exact of_advance h (advance_cfWctrl hts) (hs.scopeAt hts).cfWctrl
  | cfWpresc => exact of_advance h (advance_cfWpresc hts) (hs.scopeAt hts).cfWpresc
  | wsLeave => exact of_advance h (advance_wsLeave hts) (hs.scopeAt hts).wsLeave
  | wsWpon => exact of_advance h (advance_wsWpon hts) (hs.scopeAt hts).wsWpon
  | gcRd => exact of_advance h (advance_gcRd hts) (hs.scopeAt hts).gcRd
  | scPoll => exact of_advance h (advance_scPoll hts) ((hs.scopeAt hts).scPoll hts)
  | scWpoff => exact of_advance h (advance_scWpoff hts) (hs.scopeAt hts).scWpoff
  | scWr => exact of_advance h (advance_scWr hts) (hs.scopeAt hts).scWr
  | cfRctrl => exact of_advance h (advance_cfRctrl hts) (hs.scopeAt hts).cfRctrl
  | cfRpresc => exact of_advance h (advance_cfRpresc hts) (hs.scopeAt hts).cfRpresc

/-- Taking an event leaves every clause: it changes the schedule only. -/
theorem ScopeAt.useEvent (h : ScopeAt x s) : ScopeAt x (useEvent s) := by
  obtain ⟨i, n, he⟩ := useEvent_eq s
  rw [he]
  exact { h with }

/-- Acceptance in `IDLE` enters a first state, where nothing is unlocked yet: the rows of the two agree but for `LOCK`
and `OPL`. -/
theorem ScopeAt.accept (h : ScopeAt .idle s) (tr : Transaction) : ScopeAt (firstState tr) (accept tr s) := by
  cases tr <;> exact { h with lock := rfl, opl := rfl, err := .inl rfl }

theorem ScopeInv.ts_idle (h : ScopeInv s) (hl : s.lock = false) : s.ts = .idle := by
  simpa [hl] using h.seq.lock

/-- An answered issue step writes a mailbox only; an accepted one finds the block in `IDLE`. -/
theorem issue_keeps_scopeInv {t : State} {r : Nat} {p : Packet} (hs : ScopeInv s) (h : issue r p s = .next t) :
    ScopeInv t := by
  rcases issue_cases h with ⟨w, ws, rfl⟩ | ⟨tr, d, m, c, n, k, hacc, rfl⟩
  · exact ScopeAt.scopeInv (x := s.ts) { hs.scopeAt rfl with } rfl
  · obtain ⟨hlock, -, -⟩ := (acceptanceError_eq_none tr _).mp hacc
    exact ScopeAt.scopeInv (x := firstState tr) { (hs.scopeAt (hs.ts_idle hlock)).accept tr with } rfl

end

/-- Settles O46: the step of each of the four agents. -/
theorem stepKeepsScopeInv : Obligations.StepKeepsScopeInv := by
  intro s t hs h
  have hu : ScopeAt s.ts (useEvent s) := (hs.scopeAt rfl).useEvent
  rcases step_cases h with ⟨u, rfl | rfl, -, hadv⟩ | ⟨m, -, rfl⟩ | ⟨b, -, rfl⟩ | ⟨r, p, -, hissue⟩
  · exact advance_keeps_scopeInv hs hadv
  · exact advance_keeps_scopeInv (hu.scopeInv (useEvent_ts s)) hadv
  · rw [← useEvent_counter s]
    exact (hu.counterStep m).scopeInv (useEvent_ts s)
  · exact ScopeAt.scopeInv (x := s.ts) { hu with } (useEvent_ts s)
  · exact issue_keeps_scopeInv (hu.scopeInv (useEvent_ts s)) hissue

/-! ### Reset and the reachable states (10_state.md R33, R48; 70_reset_and_hazards.md R280) -/

/-- A block right after reset: nothing is locked, so no clause asks anything of the counter. -/
theorem boot_scopeInv (cfg : Config) (c : Counter) (clk : Bool) (inputs cycle : List Event) :
    ScopeInv (State.boot cfg c clk inputs cycle) :=
  ScopeAt.scopeInv (x := .idle) ⟨rfl, rfl, rfl, rfl, .inl rfl, nofun, nofun, nofun⟩ rfl

theorem TState.initMode_eq_enteringInit (x : TState) : x.initMode = .enteringInit ↔ x = .wsPoll := by
  cases x <;> decide

theorem TState.initMode_eq_init (x : TState) :
    x.initMode = .init ↔ (x = .stWdate ∨ x = .stWtime ∨ x = .cfWctrl ∨ x = .cfWpresc) := by
  cases x <;> decide

theorem TState.initMode_eq_leavingInit (x : TState) : x.initMode = .leavingInit ↔ x = .wsLeave := by
  cases x <;> decide

theorem TState.unlocked_of_initMode (x : TState) : x.initMode ≠ .normal → x.unlocked = true := by
  cases x <;> decide

/-- The sequencing registers meet R33's lines because the rows of `TS` do. -/
theorem SequencingInv.r33 {s : State} (h : SequencingInv s) : R33 s where
  lock_idle := by simp [h.lock]
  wu_lock hw := by
    have hne : s.ts ≠ .idle := fun hts => by
      rw [h.wu, hts] at hw
      cases hw
    simp [h.lock, hne]
  ims_wu hi := h.wu.trans (s.ts.unlocked_of_initMode (h.ims ▸ hi))
  entering := h.ims ▸ s.ts.initMode_eq_enteringInit
  init := h.ims ▸ s.ts.initMode_eq_init
  leaving := h.ims ▸ s.ts.initMode_eq_leavingInit
  idle hts := ⟨by rw [h.wu, hts]; rfl, by rw [h.ims, hts]; rfl⟩

/-- Settles O51: the scope invariant holds at reset, every step keeps it, and it implies R33. -/
theorem reachableStatesMeetR33 : Obligations.ReachableStatesMeetR33 := by
  intro cfg c clk inputs cycle n t h
  have ht : ScopeInv t := runs_keeps ScopeInv stepKeepsScopeInv n _ t (boot_scopeInv cfg c clk inputs cycle) h
  exact ht.seq.r33

theorem boot_configuredInv {cfg : Config} (c : Counter) (clk : Bool) (inputs cycle : List Event)
    (h : cfg.wf = true) : ConfiguredInv (State.boot cfg c clk inputs cycle) where
  cfg_wf := h
  scope := boot_scopeInv cfg c clk inputs cycle
  held := nofun
  fresh hts := absurd rfl hts
  latched := nofun
  format := nofun
  written := nofun

theorem boot_mailboxInv (cfg : Config) (c : Counter) (clk : Bool) (inputs cycle : List Event) :
    MailboxInv (State.boot cfg c clk inputs cycle) where
  ports := List.length_replicate
  owner := nofun
  pending := nofun

/-- Settles O49: no transaction is in flight and nothing is configured, so each clause is met or asks nothing. -/
theorem bootMeetsInvariants : Obligations.BootMeetsInvariants :=
  fun cfg c clk inputs cycle h =>
    ⟨boot_configuredInv c clk inputs cycle h, boot_mailboxInv cfg c clk inputs cycle⟩

/-- Every mailbox is none at reset, one outside the list by definition (log entry 21). -/
theorem resetOf_mailbox (cfg : Config) (c : Counter) (r : Nat) : (State.resetOf cfg c).mailbox r = none := by
  simp only [State.mailbox, State.resetOf, List.getElem?_replicate]
  split_ifs <;> rfl

/-- Settles O50: the fields of the reset state. -/
theorem resetValues : Obligations.ResetValues :=
  ⟨rfl, rfl, rfl, rfl, rfl, rfl, resetOf_mailbox Config.default Counter.reset, rfl⟩

/-! ### What an engine step accesses, and whom it answers (10_state.md R24, R46; 60_exceptions.md R247) -/

/-- The register a state of `TS` writes (R24). -/
def TState.writes : TState → Option CReg
  | .wsWpoff | .scWpoff | .wsWpon => some .wpctl
  | .wsReq | .wsLeave => some .initctl
  | .stWdate => some .date
  | .stWtime => some .time
  | .cfWctrl => some .ctrl
  | .cfWpresc => some .presc
  | .scWr => some .cal
  | .idle | .gtD1 | .gtT1 | .gtSs | .gtT2 | .gtD2 | .wsPoll | .gcRd | .scPoll | .cfRctrl | .cfRpresc => none

/-- The access of an engine step: that of the state of `TS` it starts in. -/
inductive EngineAccess (s t : State) : Prop
  | none (idle : s.ts = .idle) (hist : t.hist = s.hist) (counter : t.counter = s.counter)
  | read (i : CReg) (reads : s.ts.reads = some i) (hist : t.hist = s.hist ++ [.rd i (s.counter.read i)])
      (counter : t.counter = s.counter)
  | write (i : CReg) (v : Word) (writes : s.ts.writes = some i) (hist : t.hist = s.hist ++ [.wr i v])
      (counter : t.counter = s.counter.write i v)

/-- An engine step leaves lock and mailboxes, or it frees the lock and answers the owner. -/
inductive EngineAnswer (s t : State) : Prop
  | goesOn (lock : t.lock = s.lock) (resp : t.resp = s.resp)
  | ends (w : List Word) (lock : t.lock = false) (resp : t.resp = s.resp.set s.owner (some w))

/-- The access of an engine step and its answer. -/
structure EngineEffect (s t : State) : Prop where
  access : EngineAccess s t
  answer : EngineAnswer s t

section
variable {s t : State} {x : TState}

theorem EngineEffect.of_read {i : CReg} (hts : s.ts = x) (hr : x.reads = some i)
    (hh : t.hist = s.hist ++ [.rd i (s.counter.read i)]) (hc : t.counter = s.counter) (ha : EngineAnswer s t) :
    EngineEffect s t :=
  ⟨.read i (hts ▸ hr) hh hc, ha⟩

theorem EngineEffect.of_write {i : CReg} {v : Word} (hts : s.ts = x) (hw : x.writes = some i)
    (hh : t.hist = s.hist ++ [.wr i v]) (hc : t.counter = s.counter.write i v) (ha : EngineAnswer s t) :
    EngineEffect s t :=
  ⟨.write i v (hts ▸ hw) hh hc, ha⟩

theorem mismatch_effect {i : CReg} (retry : TState) (hts : s.ts = x) (hr : x.reads = some i) :
    EngineEffect s (mismatch retry (logRead i s)) := by
  rcases mismatch_cases retry (logRead i s) with ⟨n, hm⟩ | ⟨n, hm⟩ <;> rw [hm]
  · exact .of_read hts hr rfl rfl (.goesOn rfl rfl)
  · exact .of_read hts hr rfl rfl (.ends _ rfl rfl)

theorem gtT2_effect (hts : s.ts = .gtT2) : EngineEffect s (gtT2 s) := by
  by_cases hst : s.counter.time = s.st
  · rw [gtT2_agrees s hst]
    exact .of_read (i := .time) hts rfl rfl rfl (.goesOn rfl rfl)
  · rw [gtT2_differs s hst]
    exact mismatch_effect .gtT1 hts rfl

theorem gtD2_effect (hts : s.ts = .gtD2) : EngineEffect s (gtD2 s) := by
  by_cases hsd : s.counter.date = s.sd
  · obtain ⟨p, n, hf⟩ := finishGettime_eq_finish (logRead .date s)
    rw [gtD2_agrees s hsd, hf]
    exact .of_read (i := .date) hts rfl rfl rfl (.ends _ rfl rfl)
  · rw [gtD2_differs s hsd]
    exact mismatch_effect .gtD1 hts rfl

theorem wsPoll_effect (hts : s.ts = .wsPoll) (h : wsPoll s = .next t) : EngineEffect s t := by
  rcases wsPoll_cases h with ⟨-, body, -, rfl⟩ | ⟨-, -, rfl⟩ | ⟨-, -, rfl⟩ <;>
    exact .of_read (i := .status) hts rfl rfl rfl (.goesOn rfl rfl)

theorem scPoll_effect (hts : s.ts = .scPoll) : EngineEffect s (scPoll s) := by
  rcases scPoll_cases s with ⟨-, hp⟩ | ⟨-, -, hp⟩ | ⟨-, -, hp⟩ <;> rw [hp]
  · exact .of_read (i := .status) hts rfl rfl rfl (.goesOn rfl rfl)
  · exact .of_read (i := .status) hts rfl rfl rfl (.goesOn rfl rfl)
  · exact .of_read (i := .status) hts rfl rfl rfl (.ends _ rfl rfl)

theorem cfRpresc_effect (hts : s.ts = .cfRpresc) : EngineEffect s (cfRpresc s) := by
  cases hm : configMatches s.cfg s.cfFmt s.counter.presc
  · rw [cfRpresc_differs s hm]
    exact .of_read (i := .presc) hts rfl rfl rfl (.goesOn rfl rfl)
  · rw [cfRpresc_matches s hm]
    exact .of_read (i := .presc) hts rfl rfl rfl (.ends _ rfl rfl)

/-- The effect of every engine step, state by state of `TS`. -/
theorem advance_effect (h : advance s = .next t) : EngineEffect s t := by
  cases hts : s.ts with
  | idle => exact of_advance h (advance_idle hts) ⟨.none hts rfl rfl, .goesOn rfl rfl⟩
  | gtD1 => exact of_advance h (advance_gtD1 hts) (.of_read hts rfl rfl rfl (.goesOn rfl rfl))
  | gtT1 => exact of_advance h (advance_gtT1 hts) (.of_read hts rfl rfl rfl (.goesOn rfl rfl))
  | gtSs => exact of_advance h (advance_gtSs hts) (.of_read hts rfl rfl rfl (.goesOn rfl rfl))
  | gtT2 => exact of_advance h (advance_gtT2 hts) (gtT2_effect hts)
  | gtD2 => exact of_advance h (advance_gtD2 hts) (gtD2_effect hts)
  | wsWpoff => exact of_advance h (advance_wsWpoff hts) (.of_write hts rfl rfl rfl (.goesOn rfl rfl))
  | wsReq => exact of_advance h (advance_wsReq hts) (.of_write hts rfl rfl rfl (.goesOn rfl rfl))
  | wsPoll => exact wsPoll_effect hts (advance_wsPoll hts ▸ h)
  | stWdate => exact of_advance h (advance_stWdate hts) (.of_write hts rfl rfl rfl (.goesOn rfl rfl))
  | stWtime => exact of_advance h (advance_stWtime hts) (.of_write hts rfl rfl rfl (.goesOn rfl rfl))
  | cfWctrl => exact of_advance h (advance_cfWctrl hts) (.of_write hts rfl rfl rfl (.goesOn rfl rfl))
  | cfWpresc => exact of_advance h (advance_cfWpresc hts) (.of_write hts rfl rfl rfl (.goesOn rfl rfl))
  | wsLeave => exact of_advance h (advance_wsLeave hts) (.of_write hts rfl rfl rfl (.goesOn rfl rfl))
  | wsWpon => exact of_advance h (advance_wsWpon hts) (.of_write hts rfl rfl rfl (.ends _ rfl rfl))
  | gcRd => exact of_advance h (advance_gcRd hts) (.of_read hts rfl rfl rfl (.ends _ rfl rfl))
  | scPoll => exact of_advance h (advance_scPoll hts) (scPoll_effect hts)
  | scWpoff => exact of_advance h (advance_scWpoff hts) (.of_write hts rfl rfl rfl (.goesOn rfl rfl))
  | scWr => exact of_advance h (advance_scWr hts) (.of_write hts rfl rfl rfl (.goesOn rfl rfl))
  | cfRctrl => exact of_advance h (advance_cfRctrl hts) (.of_read hts rfl rfl rfl (.goesOn rfl rfl))
  | cfRpresc => exact of_advance h (advance_cfRpresc hts) (cfRpresc_effect hts)

end

/-- R46 gives a transaction each read of the states it passes through. -/
theorem mayAccess_of_reads {x : TState} {o : Transaction} {i : CReg} (v : Word) (ho : x.of o = true)
    (hr : x.reads = some i) : mayAccess o (.rd i v) = true := by
  cases x with
  | wsPoll =>
    cases hr
    cases o with
    | settime | config => rfl
    | gettime | getcal | setcal => cases ho
  | gtD1 | gtT1 | gtSs | gtT2 | gtD2 | gcRd | scPoll | cfRctrl | cfRpresc =>
    obtain rfl := of_decide_eq_true ho
    cases hr
    rfl
  | _ => cases hr

/-- And each write. -/
theorem mayAccess_of_writes {x : TState} {o : Transaction} {i : CReg} (v : Word) (ho : x.of o = true)
    (hw : x.writes = some i) : mayAccess o (.wr i v) = true := by
  cases x with
  | wsWpoff | wsReq | wsLeave =>
    cases hw
    cases o with
    | settime | config => rfl
    | gettime | getcal | setcal => cases ho
  | wsWpon =>
    cases hw
    cases o with
    | settime | config | setcal => rfl
    | gettime | getcal => cases ho
  | stWdate | stWtime | cfWctrl | cfWpresc | scWpoff | scWr =>
    obtain rfl := of_decide_eq_true ho
    cases hw
    rfl
  | _ => cases hw

/-- Settles O45: the step's access is that of its state of `TS`, which is one of the transaction's. -/
theorem transactionsAccessOnlyTheirRegisters : Obligations.TransactionsAccessOnlyTheirRegisters := by
  intro s t a hs h ha
  rcases (advance_effect h).access with ⟨-, hh, -⟩ | ⟨i, hr, hh, -⟩ | ⟨i, v, hw, hh, -⟩
  · simp [hh] at ha
  · obtain rfl : Access.rd i (s.counter.read i) = a := by simpa [hh] using ha
    exact mayAccess_of_reads _ hs.opl hr
  · obtain rfl : Access.wr i v = a := by simpa [hh] using ha
    exact mayAccess_of_writes v hs.opl hw

/-! ### Mailboxes (10_state.md R34; 30_encoding.md R92; 60_exceptions.md R251) -/

section
variable {s t : State}

/-- The invariant speaks of four fields only. -/
theorem MailboxInv.congr (h : MailboxInv s) (hcfg : t.cfg = s.cfg) (hlock : t.lock = s.lock)
    (howner : t.owner = s.owner) (hresp : t.resp = s.resp) : MailboxInv t := by
  obtain ⟨hports, hown, hpend⟩ := h
  simp only [State.mailbox] at hpend
  constructor <;> simpa only [State.mailbox, hcfg, hlock, howner, hresp]

theorem MailboxInv.useEvent (h : MailboxInv s) : MailboxInv (useEvent s) :=
  h.congr (useEvent_cfg s) (useEvent_lock s) (useEvent_owner s) (useEvent_resp s)

/-- The engine goes on with the owner's mailbox as it is, or it answers and frees the lock. -/
theorem advance_keeps_mailboxInv (hs : MailboxInv s) (h : advance s = .next t) : MailboxInv t := by
  obtain ⟨hcfg, -, -, -, -, -, -, -, -, howner, -⟩ := (engineUntouched_eq_iff s t).mp (advance_frame h).untouched
  rcases (advance_effect h).answer with ⟨hlock, hresp⟩ | ⟨w, hlock, hresp⟩
  · exact hs.congr hcfg hlock howner hresp
  · have hfree : t.lock ≠ true := by simp [hlock]
    exact ⟨by rw [hresp, List.length_set, hs.ports, hcfg], fun hl => absurd hl hfree, fun hl => absurd hl hfree⟩

/-- Acceptance empties the mailbox of the owner it names. -/
theorem MailboxInv.accept (hs : MailboxInv s) (tr : Transaction) (hr : s.issuer < s.cfg.nreq) :
    MailboxInv (accept tr (openIssue s)) where
  ports := by simpa using hs.ports
  owner _ := hr
  pending _ := mailbox_setMailbox_same s.issuer none s (hs.ports ▸ hr)

/-- An issue step answers a requester that is not the owner of a transaction in flight, or begins one of its own. -/
theorem issue_keeps_mailboxInv {r : Nat} {p : Packet} (hs : MailboxInv s) (hr : r < s.cfg.nreq)
    (hfree : ¬(s.lock = true ∧ s.owner = r)) (h : issue r p s = .next t) : MailboxInv t := by
  rcases issue_cases h with ⟨w, ws, rfl⟩ | ⟨tr, d, m, c, n, k, -, rfl⟩
  · refine ⟨by simpa using hs.ports, hs.owner, fun hl => ?_⟩
    exact (mailbox_setMailbox_other r _ _ _ fun ho => hfree ⟨hl, ho⟩).trans (hs.pending hl)
  · have hi : MailboxInv { s with issuer := r } := hs.congr rfl rfl rfl rfl
    exact (hi.accept tr hr).congr rfl rfl rfl rfl

end

/-- Settles O48: the step of each of the four agents. -/
theorem stepKeepsMailboxInv : Obligations.StepKeepsMailboxInv := by
  intro s t hs h
  have hu : MailboxInv (useEvent s) := hs.useEvent
  rcases step_cases h with ⟨u, rfl | rfl, -, hadv⟩ | ⟨m, -, rfl⟩ | ⟨b, -, rfl⟩ | ⟨r, p, hmay, hissue⟩
  · exact advance_keeps_mailboxInv hs hadv
  · exact advance_keeps_mailboxInv hu hadv
  · exact hu.congr rfl rfl rfl rfl
  · exact hu.congr rfl rfl rfl rfl
  · exact issue_keeps_mailboxInv hu (by simpa using hmay.port) (by simpa using hmay.free) hissue

end Sys2Proof.Machine
end

section
/-! PROOF. The memory statements (spec/20_memory.md): the byte view, the counter's writes and contract, the writes of
the engine and the target configuration under every agent's step, the calibration states, two contending SETTIMEs. -/

namespace Sys2Proof

/-! ### The byte view (20_memory.md R63; log entry 16) -/

/-- Four bytes side by side are the word they were cut from. -/
theorem wordOfBytes_bits (w : Word) :
    wordOfBytes (BitVec.ofNat 8 (bits w 7 0)) (BitVec.ofNat 8 (bits w 15 8)) (BitVec.ofNat 8 (bits w 23 16))
      (BitVec.ofNat 8 (bits w 31 24)) = w := by
  apply BitVec.eq_of_toNat_eq
  simp only [wordOfBytes, bits, BitVec.toNat_ofNat]
  omega

theorem wordsOfBytes_wordBytes_append (w : Word) (bs : List Byte) :
    wordsOfBytes (wordBytes w ++ bs) = (wordsOfBytes bs).map (w :: ·) := by
  simp only [wordBytes, List.cons_append, List.nil_append, wordsOfBytes, wordOfBytes_bits]

/-- Reading words from bytes undoes laying words out as bytes. -/
theorem wordsOfBytes_flatMap_wordBytes (ws : List Word) : wordsOfBytes (ws.flatMap wordBytes) = some ws := by
  induction ws with
  | nil => rfl
  | cons w ws ih => rw [List.flatMap_cons, wordsOfBytes_wordBytes_append, ih, Option.map_some]

/-- Settles O5: the words read back are the packet's, its header first. -/
theorem bytesDecodeAsWords : Obligations.BytesDecodeAsWords := by
  intro p
  rw [decodeBytes, wordsOfBytes_flatMap_wordBytes, Packet.words]

/-! ### The packet of a SETTIME (30_encoding.md R94, R96, R103) -/

/-- The fields of `W_DATE` come back whole, and the bits between them are 0. -/
theorem packDate_fields {month day : Nat} (year : Int) (hm : month ≤ 15) (hd : day ≤ 31) :
    bits (packDate year month day) 31 16 = field 16 year ∧
    bits (packDate year month day) 15 12 = 0 ∧ bits (packDate year month day) 15 8 = month ∧
    bits (packDate year month day) 7 5 = 0 ∧ bits (packDate year month day) 7 0 = day := by
  have hy := field_lt 16 year
  simp only [packDate]
  refine ⟨?_, ?_, ?_, ?_, ?_⟩ <;> rw [bits_ofNat _ _ _ (by omega)] <;> omega

/-- The same for `W_TIME`. -/
theorem packTime_fields {hour minute second : Nat} (wday : Int) (hh : hour ≤ 31) (hm : minute ≤ 63)
    (hs : second ≤ 63) :
    bits (packTime wday hour minute second) 31 24 = field 8 wday ∧
    bits (packTime wday hour minute second) 23 21 = 0 ∧ bits (packTime wday hour minute second) 23 16 = hour ∧
    bits (packTime wday hour minute second) 15 14 = 0 ∧ bits (packTime wday hour minute second) 15 8 = minute ∧
    bits (packTime wday hour minute second) 7 6 = 0 ∧ bits (packTime wday hour minute second) 7 0 = second := by
  have hw := field_lt 8 wday
  simp only [packTime]
  refine ⟨?_, ?_, ?_, ?_, ?_, ?_, ?_⟩ <;> rw [bits_ofNat _ _ _ (by omega)] <;> omega

theorem Op.ofCode_code (op : Op) : Op.ofCode op.code = some op := by
  cases op <;> rfl

/-- The decoder accepts a packet of a known opcode, of its format's length and with its must-be-zero bits clear
(R94, R97, R98). -/
theorem decode_of_fields {op : Op} {p : Packet} (hcode : bits p.cw0 31 28 = op.code)
    (hlen : p.length = op.format.words) (hzero : mustBeZeroHolds op p = true) :
    decode p = .ok (operands op p) := by
  simp only [decode, hcode, Op.ofCode_code, hlen, hzero, ne_eq, not_true_eq_false, if_true, if_false]

/-- A well-formed SETTIME survives its packet. -/
theorem decode_encode_settime {year : Int} {month day : Nat} {wday : Int} {hour minute second : Nat}
    (hwf : (Instr.settime year month day wday hour minute second).wf = true) :
    decode (encode (.settime year month day wday hour minute second)) =
      .ok (.settime year month day wday hour minute second) := by
  obtain ⟨hlen, hcode⟩ := Laws.EncodeShape.settime year month day wday hour minute second hwf
  simp only [Instr.wf, Bool.and_eq_true, decide_eq_true_eq] at hwf
  obtain ⟨⟨⟨⟨⟨⟨hyear, hmonth⟩, hday⟩, hwday⟩, hhour⟩, hminute⟩, hsecond⟩ := hwf
  obtain ⟨hY, hz1, hM, hz2, hD⟩ := packDate_fields year hmonth hday
  obtain ⟨hW, hz3, hH, hz4, hMi, hz5, hS⟩ := packTime_fields wday hhour hminute hsecond
  have hheader : bits (header .settime 0) 27 0 = 0 := by decide
  rw [decode_of_fields (op := .settime) hcode hlen
    (by simp [mustBeZeroHolds, encode, Packet.cw1, Packet.cw2, hheader, hz1, hz2, hz3, hz4, hz5])]
  simp [operands, encode, Packet.cw1, Packet.cw2, hY, hM, hD, hW, hH, hMi, hS,
    signed_field 16 (by decide) year hyear, signed_field 8 (by decide) wday hwday]

end Sys2Proof

namespace Sys2Proof.Machine

/-! ### Writes presented to the counter (20_memory.md R69; log entry 11) -/

/-- The register a write names reads as written where the write is accepted, and as before where it is refused. -/
theorem Counter.read_write_same (c : Counter) (i : CReg) (v : Word) :
    (c.write i v).read i = if c.accepts i then v else c.read i := by
  unfold Counter.write
  split_ifs
  · exact c.read_put_same i v
  · rfl

/-- Settles O11: R69's condition, register by register. -/
theorem writesStoredWhereAccepted : Obligations.WritesStoredWhereAccepted := by
  intro c i v
  refine ⟨fun j hj => c.read_write_other v hj, ?always, ?cal, ?body, ?readOnly⟩
  case always => rintro (rfl | rfl) <;> exact c.read_write_same _ v
  case cal =>
    rintro rfl
    rw [c.read_write_same]
    cases hw : c.wpen <;> simp [Counter.accepts, hw]
  case body => rintro (rfl | rfl | rfl | rfl) <;> exact c.read_write_same _ v
  case readOnly => rintro (rfl | rfl) <;> exact c.write_of_refused _ v rfl

/-! ### The counter's contract (20_memory.md R67 to R72; log entries 9, 10, 27) -/

/-- R70 on a rise. -/
theorem nextInitActive_rises {c : Counter} {want : Bool} (ha : c.initActive = false)
    (h : nextInitActive c want = true) : c.initReq = true := by
  simp only [nextInitActive, ha, Bool.false_eq_true, if_false, Bool.and_eq_true] at h
  exact h.2

/-- R70 on a fall. -/
theorem nextInitActive_falls {c : Counter} {want : Bool} (ha : c.initActive = true)
    (h : nextInitActive c want = false) : c.initReq = false := by
  simp only [nextInitActive, ha, if_true, Bool.or_eq_false_iff] at h
  exact h.2

/-- R71 on a rise. -/
theorem nextCalPending_rises {c : Counter} {want : Bool} (hp : c.calPending = false)
    (h : nextCalPending c want = true) : c.calWritten = true := by
  simp only [nextCalPending, hp, Bool.false_eq_true, if_false, Bool.and_eq_true] at h
  exact h.2

/-- R70 lets `INIT_ACTIVE` become what the move wants. -/
theorem nextInitActive_eq_want {c : Counter} {want : Bool}
    (rise : c.initActive = false → want = true → c.initReq = true)
    (fall : c.initActive = true → want = false → c.initReq = false) : nextInitActive c want = want := by
  cases want with
  | true => cases ha : c.initActive <;> simp [nextInitActive, ha, rise]
  | false => cases ha : c.initActive <;> simp [nextInitActive, ha, fall]

/-- R71 lets `CAL_PENDING` become what the move wants. -/
theorem nextCalPending_eq_want {c : Counter} {want : Bool}
    (rise : c.calPending = false → want = true → c.calWritten = true) : nextCalPending c want = want := by
  cases want with
  | true => cases hp : c.calPending <;> simp [nextCalPending, hp, rise]
  | false => simp [nextCalPending]

theorem counterStep_time_of_active (m : CounterMove) {c : Counter} (ha : c.initActive = true) :
    (counterStep m c).time = c.time := if_pos ha

theorem counterStep_date_of_active (m : CounterMove) {c : Counter} (ha : c.initActive = true) :
    (counterStep m c).date = c.date := if_pos ha

/-- R72: the subsecond field restarts in the step in which the flag falls. -/
theorem counterStep_subsec_of_fall {m : CounterMove} {c : Counter} (ha : c.initActive = true)
    (hf : nextInitActive c (initActiveBit m.status) = false) :
    (counterStep m c).subsec = BitVec.ofNat 32 (bits m.subsec 31 16 * 2 ^ 16 + prescS c.presc) :=
  if_pos ⟨ha, by simp [hf]⟩

/-- In every other step `SUBSEC` is the move's. -/
theorem counterStep_subsec_of_not_fall {m : CounterMove} {c : Counter}
    (hf : ¬(c.initActive = true ∧ nextInitActive c (initActiveBit m.status) = false)) :
    (counterStep m c).subsec = m.subsec :=
  if_neg (by simpa using hf)

/-- A word of a reserved upper half and a prescaler, read in its lower half. -/
theorem bits_lower_half (v presc : Word) :
    bits (BitVec.ofNat 32 (bits v 31 16 * 2 ^ 16 + prescS presc)) 15 0 = prescS presc := by
  have hv := bits_lt v 31 16
  have hp := bits_lt presc 14 0
  simp only [prescS] at *
  rw [bits_ofNat _ _ _ (by omega)]
  omega

/-- Settles O9: the stable registers by definition, each flag by its rule, and the calendar in init mode. -/
theorem counterKeepsContract : Obligations.CounterKeepsContract := by
  intro m c
  rw [counterStep_initActive, counterStep_calPending]
  refine ⟨?stable, nextInitActive_rises, nextInitActive_falls, nextCalPending_rises, fun ha => ?initMode⟩
  case stable => rintro i (rfl | rfl | rfl | rfl | rfl) <;> rfl
  case initMode =>
    refine ⟨counterStep_time_of_active m ha, counterStep_date_of_active m ha, fun hf => ?_⟩
    rw [counterStep_subsec_of_fall ha hf, bits_lower_half]

/-- A counter is its nine registers and its hidden bit. -/
theorem Counter.eq_of_read {c d : Counter} (h : ∀ i, c.read i = d.read i) (hw : c.calWritten = d.calWritten) :
    c = d := by
  cases c
  cases d
  simp only [Counter.mk.injEq]
  exact ⟨h .time, h .date, h .subsec, h .initctl, h .status, h .ctrl, h .presc, h .cal, h .wpctl, hw⟩

/-- A word is its two halves. -/
theorem ofNat_halves (w : Word) : BitVec.ofNat 32 (bits w 31 16 * 2 ^ 16 + bits w 15 0) = w := by
  apply BitVec.eq_of_toNat_eq
  simp only [bits, BitVec.toNat_ofNat]
  omega

/-- A `STATUS` word is its two flags and its reserved bits. -/
theorem statusWord_self (w : Word) : statusWord w (initActiveBit w) (calPendingBit w) = w := by
  apply BitVec.eq_of_toNat_eq
  simp only [statusWord, initActiveBit, calPendingBit, bit_toNat, bits, BitVec.toNat_ofNat]
  omega

/-- Settles O10: the step whose move is the counter to reach; the contract is what makes nothing of it left undone. -/
theorem counterMayDoWhatContractAllows : Obligations.CounterMayDoWhatContractAllows := by
  intro c d hinitctl hctrl hpresc hcal hwpctl hwritten hrise hfall hpend hstill hrestart
  have hactive : nextInitActive c (initActiveBit d.status) = d.initActive := nextInitActive_eq_want hrise hfall
  have hpending : nextCalPending c (calPendingBit d.status) = d.calPending := nextCalPending_eq_want hpend
  refine ⟨⟨d.time, d.date, d.subsec, d.status⟩, Counter.eq_of_read (fun i => ?_) hwritten.symm⟩
  cases i with
  | time => exact ite_eq_right_iff.mpr fun ha => (hstill ha).1.symm
  | date => exact ite_eq_right_iff.mpr fun ha => (hstill ha).2.symm
  | subsec =>
    by_cases hf : c.initActive = true ∧ d.initActive = false
    · obtain ⟨ha, hd⟩ := hf
      rw [Counter.read, counterStep_subsec_of_fall ha (hactive.trans hd), ← hrestart ha hd]
      exact ofNat_halves d.subsec
    · exact counterStep_subsec_of_not_fall (by rwa [hactive])
  | status =>
    show statusWord d.status _ _ = d.status
    rw [hactive, hpending]
    exact statusWord_self d.status
  | initctl => exact hinitctl.symm
  | ctrl => exact hctrl.symm
  | presc => exact hpresc.symm
  | cal => exact hcal.symm
  | wpctl => exact hwpctl.symm

/-! ### The writes of the engine (20_memory.md R69, 42_init_mode.md R158) -/

/-- A write an engine state makes is accepted: protection is off, and in a body of the scope `INIT_ACTIVE` = 1. -/
theorem ScopeInv.accepts_of_writes {s : State} {i : CReg} (hs : ScopeInv s) (hw : s.ts.writes = some i) :
    s.counter.accepts i = true := by
  have hat : ScopeAt s.ts s := hs.scopeAt rfl
  generalize s.ts = x at hat hw
  cases x with
  | wsWpoff | scWpoff | wsWpon | wsReq | wsLeave =>
    cases hw
    rfl
  | scWr =>
    cases hw
    simp [Counter.accepts, hat.unprotected rfl]
  | stWdate | stWtime | cfWctrl | cfWpresc =>
    cases hw
    simp [Counter.accepts, hat.unprotected rfl, hat.active rfl]
  | idle | gtD1 | gtT1 | gtSs | gtT2 | gtD2 | wsPoll | gcRd | scPoll | cfRctrl | cfRpresc => cases hw

/-- Settles O52: the write recorded is the one its state of `TS` makes. -/
theorem engineWritesAreAccepted : Obligations.EngineWritesAreAccepted := by
  intro s t i v hs h hrec
  rcases (advance_effect h).access with ⟨-, hh, -⟩ | ⟨j, -, hh, -⟩ | ⟨j, u, hw, hh, hc⟩
  · simp [hh] at hrec
  · simp [hh] at hrec
  · obtain ⟨rfl, rfl⟩ : j = i ∧ u = v := by simpa [hh] using hrec
    have hacc : s.counter.accepts j = true := hs.accepts_of_writes hw
    exact ⟨hacc, by rw [hc, s.counter.write_of_accepts j u hacc]⟩

/-! ### The target configuration under each agent's step (45_config_sequencer.md R226) -/

/-- The clauses of `ConfiguredInv` beyond the scope's. -/
structure ConfigClauses (s : State) : Prop where
  cfg_wf : s.cfg.wf = true
  held : s.configured = true → TargetHeld s
  fresh : s.ts ≠ .idle → (s.opl = .config ↔ s.configured = false)
  latched : s.ts = .cfRpresc → s.cfFmt = fmtBit s.counter.ctrl
  format : s.ts = .cfWpresc → fmtBit s.counter.ctrl = targetFmt
  written : (s.ts = .wsLeave ∨ s.ts = .wsWpon) → s.opl = .config → s.err = .ok → TargetHeld s

/-- The clauses beside the scope invariant: together they are the invariant. -/
theorem configuredInv_iff (s : State) : ConfiguredInv s ↔ ScopeInv s ∧ ConfigClauses s :=
  ⟨fun ⟨hwf, hscope, hheld, hfresh, hlatch, hfmt, hwrit⟩ => ⟨hscope, hwf, hheld, hfresh, hlatch, hfmt, hwrit⟩,
    fun ⟨hscope, hwf, hheld, hfresh, hlatch, hfmt, hwrit⟩ => ⟨hwf, hscope, hheld, hfresh, hlatch, hfmt, hwrit⟩⟩

/-- What the clauses speak of besides the place of a CONFIG in flight. A tuple, so that a state which updates none of
them has the same one by `rfl`. -/
def configView (s : State) : Config × Bool × Transaction × Word × Word :=
  (s.cfg, s.configured, s.opl, s.counter.ctrl, s.counter.presc)

theorem configView_eq_iff (s t : State) : configView t = configView s ↔
    t.cfg = s.cfg ∧ t.configured = s.configured ∧ t.opl = s.opl ∧ t.counter.ctrl = s.counter.ctrl ∧
    t.counter.presc = s.counter.presc := by
  simp only [configView, Prod.mk.injEq]

theorem TargetHeld.congr {s t : State} (h : TargetHeld s) (hv : configView t = configView s) : TargetHeld t := by
  obtain ⟨hcfg, -, -, hctrl, hpresc⟩ := (configView_eq_iff s t).mp hv
  simpa only [TargetHeld, hcfg, hctrl, hpresc] using h

/-- A write of a register outside the configuration. -/
theorem configView_cwrite (s : State) {i : CReg} (v : Word) (hc : i ≠ .ctrl) (hp : i ≠ .presc) :
    configView (cwrite i v s) = configView s :=
  (configView_eq_iff s _).mpr
    ⟨rfl, rfl, rfl, s.counter.read_write_other v hc.symm, s.counter.read_write_other v hp.symm⟩

/-- The fields of the target `PRESC` word come back, as the parameters' ranges are those of the fields. -/
theorem prescWord_fields {predivA predivS : Nat} (ha : predivA ≤ 127) (hs : predivS ≤ 32767) :
    prescS (prescWord predivA predivS) = predivS ∧ prescA (prescWord predivA predivS) = predivA := by
  simp only [prescS, prescA, prescWord]
  refine ⟨?_, ?_⟩ <;> rw [bits_ofNat _ _ _ (by omega)] <;> omega

/-- The states of `TS` of which a clause asks more than of the others. -/
def TState.promises : TState → Bool
  | .cfRpresc | .cfWpresc | .wsLeave | .wsWpon => true
  | _ => false

section
variable {s t : State}

/-- A step that leaves the configuration: only the clauses on the state of `TS` it enters remain to be shown. -/
theorem ConfigClauses.of_view (h : ConfigClauses s) (hv : configView t = configView s)
    (hbusy : t.ts ≠ .idle → s.ts ≠ .idle)
    (hlatch : t.ts = .cfRpresc → t.cfFmt = fmtBit s.counter.ctrl)
    (hfmt : t.ts = .cfWpresc → fmtBit s.counter.ctrl = targetFmt)
    (hwrit : (t.ts = .wsLeave ∨ t.ts = .wsWpon) → s.opl = .config → t.err = .ok → TargetHeld s) :
    ConfigClauses t := by
  obtain ⟨hcfg, hconf, hopl, hctrl, -⟩ := (configView_eq_iff s t).mp hv
  exact
    { cfg_wf := hcfg ▸ h.cfg_wf
      held := fun hc => (h.held (hconf ▸ hc)).congr hv
      fresh := fun ht => by rw [hopl, hconf]; exact h.fresh (hbusy ht)
      latched := hctrl ▸ hlatch
      format := hctrl ▸ hfmt
      written := fun ht ho he => (hwrit ht (hopl ▸ ho) he).congr hv }

/-- The same into a state of `TS` of which no clause asks more. -/
theorem ConfigClauses.goesOn {x : TState} (h : ConfigClauses s) (hts : s.ts = x) (hx : x ≠ .idle)
    (hv : configView t = configView s) (ht : t.ts.promises = false) : ConfigClauses t := by
  have hne : ∀ y : TState, y.promises = true → t.ts ≠ y := by
    rintro y hy rfl
    exact Bool.false_ne_true (ht.symm.trans hy)
  exact h.of_view hv (fun _ => hts ▸ hx) (fun hy => absurd hy (hne _ rfl)) (fun hy => absurd hy (hne _ rfl))
    (fun hy => absurd hy (not_or.mpr ⟨hne _ rfl, hne _ rfl⟩))

theorem ConfigClauses.mismatch {x retry : TState} (h : ConfigClauses s) (hts : s.ts = x) (hx : x ≠ .idle) (i : CReg)
    (hr : retry.promises = false) : ConfigClauses (mismatch retry (logRead i s)) := by
  rcases mismatch_cases retry (logRead i s) with ⟨n, hm⟩ | ⟨n, hm⟩ <;> rw [hm]
  · exact h.goesOn hts hx rfl hr
  · exact h.goesOn hts hx rfl rfl

theorem ConfigClauses.gtT2 (h : ConfigClauses s) (hts : s.ts = .gtT2) : ConfigClauses (gtT2 s) := by
  by_cases hst : s.counter.time = s.st
  · rw [gtT2_agrees s hst]
    exact h.goesOn hts nofun rfl rfl
  · rw [gtT2_differs s hst]
    exact h.mismatch hts nofun .time rfl

theorem ConfigClauses.gtD2 (h : ConfigClauses s) (hts : s.ts = .gtD2) : ConfigClauses (gtD2 s) := by
  by_cases hsd : s.counter.date = s.sd
  · obtain ⟨p, n, hf⟩ := finishGettime_eq_finish (Machine.logRead .date s)
    rw [gtD2_agrees s hsd, hf]
    exact h.goesOn hts nofun rfl rfl
  · rw [gtD2_differs s hsd]
    exact h.mismatch hts nofun .date rfl

theorem scopeBody_promises {opl : Transaction} {body : TState} (h : scopeBody opl = some body) :
    body.promises = false := by
  cases opl <;> cases h <;> rfl

/-- `WS_POLL` that times out owes the target nothing: `ERR` is not `OK`. -/
theorem ConfigClauses.wsPoll (h : ConfigClauses s) (hts : s.ts = .wsPoll) (ht : wsPoll s = .next t) :
    ConfigClauses t := by
  rcases wsPoll_cases ht with ⟨-, body, hb, rfl⟩ | ⟨-, -, rfl⟩ | ⟨-, -, rfl⟩
  · exact h.goesOn hts nofun rfl (scopeBody_promises hb)
  · exact h.goesOn hts nofun rfl (by rw [logRead_ts, hts]; rfl)
  · exact h.of_view rfl (fun _ => by simp [hts]) nofun nofun fun _ _ => nofun

theorem ConfigClauses.scPoll (h : ConfigClauses s) (hts : s.ts = .scPoll) : ConfigClauses (scPoll s) := by
  rcases scPoll_cases s with ⟨-, hp⟩ | ⟨-, -, hp⟩ | ⟨-, -, hp⟩ <;> rw [hp]
  · exact h.goesOn hts nofun rfl rfl
  · exact h.goesOn hts nofun rfl (by rw [logRead_ts, hts]; rfl)
  · exact h.goesOn hts nofun rfl rfl

/-- The end of SETTIME's body, and of SETCAL's write: no CONFIG is in flight. -/
theorem ConfigClauses.of_opl_ne {x : TState} (h : ConfigClauses s) (hts : s.ts = x) (hx : x ≠ .idle)
    (ho : s.opl ≠ .config) (hv : configView t = configView s) (ht : t.ts = .wsLeave ∨ t.ts = .wsWpon) :
    ConfigClauses t :=
  h.of_view hv (fun _ => hts ▸ hx) (fun hy => by simp [hy] at ht) (fun hy => by simp [hy] at ht)
    fun _ hc => absurd hc ho

theorem ConfiguredInv.clauses (hs : ConfiguredInv s) : ConfigClauses s := ((configuredInv_iff s).mp hs).2

/-- In a state that only CONFIG passes through the block is not configured. -/
theorem ConfiguredInv.not_configured {x : TState} (hs : ConfiguredInv s) (hts : s.ts = x) (hx : x ≠ .idle)
    (hof : ∀ o, x.of o = true → o = .config) : s.configured = false :=
  (hs.fresh (hts ▸ hx)).mp (hof _ (hs.scope.scopeAt hts).opl)

/-- `CF_WCTRL` stores the target hour format. -/
theorem ConfiguredInv.cfWctrl (hs : ConfiguredInv s) (hts : s.ts = .cfWctrl) : ConfigClauses (cfWctrl s) := by
  have hconf : s.configured = false := hs.not_configured hts nofun fun _ => of_decide_eq_true
  have hctrl : (Machine.cfWctrl s).counter = s.counter.put .ctrl (ctrlWord targetFmt) :=
    s.counter.write_of_accepts _ _ (hs.scope.accepts_of_writes (by rw [hts]; rfl))
  exact
    { cfg_wf := hs.cfg_wf
      held := fun hc => absurd (hconf.symm.trans hc) Bool.false_ne_true
      fresh := fun _ => hs.fresh (by simp [hts])
      latched := nofun
      format := fun _ => by rw [hctrl]; exact show fmtBit (ctrlWord targetFmt) = targetFmt by decide
      written := nofun }

/-- `CF_WPRESC` stores the target prescalers beside the format `CF_WCTRL` has stored. -/
theorem ConfiguredInv.cfWpresc (hs : ConfiguredInv s) (hts : s.ts = .cfWpresc) : ConfigClauses (cfWpresc s) := by
  have hconf : s.configured = false := hs.not_configured hts nofun fun _ => of_decide_eq_true
  have hpresc : (Machine.cfWpresc s).counter = s.counter.put .presc (prescWord s.cfg.predivA s.cfg.predivS) :=
    s.counter.write_of_accepts _ _ (hs.scope.accepts_of_writes (by rw [hts]; rfl))
  obtain ⟨-, hS, hA, -⟩ := of_decide_eq_true hs.cfg_wf
  have hheld : TargetHeld (Machine.cfWpresc s) := by
    rw [TargetHeld, hpresc]
    exact ⟨hs.format hts, prescWord_fields hA hS⟩
  exact
    { cfg_wf := hs.cfg_wf
      held := fun _ => hheld
      fresh := fun _ => hs.fresh (by simp [hts])
      latched := nofun
      format := nofun
      written := fun _ _ _ => hheld }

theorem ConfigClauses.wsLeave (h : ConfigClauses s) (hts : s.ts = .wsLeave) : ConfigClauses (wsLeave s) :=
  h.of_view rfl (fun _ => by simp [hts]) nofun nofun fun _ => h.written (.inl hts)

/-- `WS_WPON` sets `CONFIGURED` for a CONFIG that has made both its writes. -/
theorem ConfigClauses.wsWpon (h : ConfigClauses s) (hts : s.ts = .wsWpon) : ConfigClauses (wsWpon s) where
  cfg_wf := h.cfg_wf
  held hc := by
    have hc : (s.configured || (decide (s.opl = .config) && decide (s.err = .ok))) = true := hc
    simp only [Bool.or_eq_true, Bool.and_eq_true, decide_eq_true_eq] at hc
    exact hc.elim h.held fun ⟨ho, he⟩ => h.written (.inr hts) ho he
  fresh := absurd rfl
  latched := nofun
  format := nofun
  written := nofun

theorem ConfigClauses.cfRctrl (h : ConfigClauses s) (hts : s.ts = .cfRctrl) : ConfigClauses (cfRctrl s) :=
  h.of_view rfl (fun _ => by simp [hts]) (fun _ => rfl) nofun nofun

/-- `CF_RPRESC` sets `CONFIGURED` only where the latched format and the prescalers it reads match the target. -/
theorem ConfigClauses.cfRpresc (h : ConfigClauses s) (hts : s.ts = .cfRpresc) : ConfigClauses (cfRpresc s) := by
  cases hm : configMatches s.cfg s.cfFmt s.counter.presc with
  | false =>
    rw [cfRpresc_differs s hm]
    exact h.goesOn hts nofun rfl rfl
  | true =>
    rw [cfRpresc_matches s hm]
    have hheld : TargetHeld s := by simpa [configMatches, TargetHeld, h.latched hts] using hm
    exact ⟨h.cfg_wf, fun _ => hheld, absurd rfl, nofun, nofun, nofun⟩

/-- Every engine step keeps the clauses, state by state of `TS`. -/
theorem advance_keeps_configClauses (hs : ConfiguredInv s) (h : advance s = .next t) : ConfigClauses t := by
  have hc : ConfigClauses s := hs.clauses
  cases hts : s.ts with
  | idle => exact of_advance h (advance_idle hts) hc
  | gtD1 => exact of_advance h (advance_gtD1 hts) (hc.goesOn hts nofun rfl rfl)
  | gtT1 => exact of_advance h (advance_gtT1 hts) (hc.goesOn hts nofun rfl rfl)
  | gtSs => exact of_advance h (advance_gtSs hts) (hc.goesOn hts nofun rfl rfl)
  | gtT2 => exact of_advance h (advance_gtT2 hts) (hc.gtT2 hts)
  | gtD2 => exact of_advance h (advance_gtD2 hts) (hc.gtD2 hts)
  | wsWpoff => exact of_advance h (advance_wsWpoff hts) (hc.goesOn hts nofun rfl rfl)
  | wsReq => exact of_advance h (advance_wsReq hts) (hc.goesOn hts nofun rfl rfl)
  | wsPoll => exact hc.wsPoll hts (advance_wsPoll hts ▸ h)
  | stWdate =>
    exact of_advance h (advance_stWdate hts)
      (hc.goesOn hts nofun (configView_cwrite (i := .date) s s.argDate nofun nofun) rfl)
  | stWtime =>
    have hopl : s.opl = .settime := of_decide_eq_true (hs.scope.scopeAt hts).opl
    exact of_advance h (advance_stWtime hts) (hc.of_opl_ne hts nofun (by simp [hopl])
      (configView_cwrite (i := .time) s s.argTime nofun nofun) (.inl rfl))
  | cfWctrl => exact of_advance h (advance_cfWctrl hts) (hs.cfWctrl hts)
  | cfWpresc => exact of_advance h (advance_cfWpresc hts) (hs.cfWpresc hts)
  | wsLeave => exact of_advance h (advance_wsLeave hts) (hc.wsLeave hts)
  | wsWpon => exact of_advance h (advance_wsWpon hts) (hc.wsWpon hts)
  | gcRd => exact of_advance h (advance_gcRd hts) (hc.goesOn hts nofun rfl rfl)
  | scPoll => exact of_advance h (advance_scPoll hts) (hc.scPoll hts)
  | scWpoff => exact of_advance h (advance_scWpoff hts) (hc.goesOn hts nofun rfl rfl)
  | scWr =>
    have hopl : s.opl = .setcal := of_decide_eq_true (hs.scope.scopeAt hts).opl
    exact of_advance h (advance_scWr hts) (hc.of_opl_ne hts nofun (by simp [hopl])
      (configView_cwrite (i := .cal) s s.argCal nofun nofun) (.inr rfl))
  | cfRctrl => exact of_advance h (advance_cfRctrl hts) (hc.cfRctrl hts)
  | cfRpresc => exact of_advance h (advance_cfRpresc hts) (hc.cfRpresc hts)

/-- Taking an event leaves every clause: it changes the schedule only. -/
theorem ConfigClauses.useEvent (h : ConfigClauses s) : ConfigClauses (useEvent s) := by
  obtain ⟨i, n, he⟩ := useEvent_eq s
  rw [he]
  exact { h with }

/-- CONFIG is accepted only unconfigured and the others only configured, and no first state asks more. -/
theorem ConfigClauses.accept (h : ConfigClauses s) {tr : Transaction} (hacc : acceptanceError tr s = none) :
    ConfigClauses (accept tr s) := by
  obtain ⟨-, hconfig, hother⟩ := (acceptanceError_eq_none tr s).mp hacc
  have hfresh : tr = .config ↔ s.configured = false :=
    ⟨fun ht => (hconfig ht).1, fun hc => by_contra fun ht => by simp [hother ht] at hc⟩
  refine ⟨h.cfg_wf, h.held, fun _ => hfresh, ?_, ?_, ?_⟩ <;> cases tr <;> nofun

theorem issue_keeps_configClauses {r : Nat} {p : Packet} (hc : ConfigClauses s) (h : issue r p s = .next t) :
    ConfigClauses t := by
  rcases issue_cases h with ⟨w, ws, rfl⟩ | ⟨tr, d, m, c, n, k, hacc, rfl⟩
  · exact { hc with }
  · have hr : ConfigClauses { s with issuer := r } := { hc with }
    exact { hr.accept hacc with }

end

/-- Settles O47: the scope is kept by O46, the other clauses by the step of each of the four agents. -/
theorem stepKeepsConfiguredInv : Obligations.StepKeepsConfiguredInv := by
  intro s t hs h
  have hu : ConfigClauses (useEvent s) := hs.clauses.useEvent
  refine (configuredInv_iff t).mpr ⟨stepKeepsScopeInv s t hs.scope h, ?_⟩
  rcases step_cases h with ⟨u, rfl | rfl, -, hadv⟩ | ⟨m, -, rfl⟩ | ⟨b, -, rfl⟩ | ⟨r, p, -, hissue⟩
  · exact advance_keeps_configClauses hs hadv
  · have hscope : ScopeInv (useEvent s) := (hs.scope.scopeAt rfl).useEvent.scopeInv (useEvent_ts s)
    exact advance_keeps_configClauses ((configuredInv_iff _).mpr ⟨hscope, hu⟩) hadv
  · rw [← useEvent_counter s]
    exact { hu with }
  · exact { hu with }
  · exact issue_keeps_configClauses hu hissue

/-! ### The states of GETCAL and SETCAL (44_calibration_transactions.md R202, R206 to R208) -/

/-- The two's-complement word of a number, by either name. -/
theorem wordOfInt_eq_ofInt (v : Int) : wordOfInt v = BitVec.ofInt 32 v := by
  apply BitVec.eq_of_toNat_eq
  simp only [wordOfInt, field, BitVec.toNat_ofNat, BitVec.toNat_ofInt]
  omega

theorem gcRd_eq {s : State} (ho : s.opl = .getcal) : gcRd s = { s with
    hist := s.hist ++ [.rd .cal s.counter.cal], lock := false, ts := .idle
    resp := s.resp.set s.owner (some [0x30000000#32, BitVec.ofInt 32 (calWordPpb s.counter.cal)]) } := by
  rw [← wordOfInt_eq_ofInt]
  simp only [gcRd, finish, respond, setMailbox, logRead, ho]
  rfl

theorem scPoll_clear {s : State} (hp : s.counter.calPending = false) :
    scPoll s = { logRead .status s with ts := .scWpoff } := if_neg (Bool.eq_false_iff.mp hp)

theorem scPoll_waits {s : State} (hp : s.counter.calPending = true) (hn : 0 < s.tmo) :
    scPoll s = { logRead .status s with tmo := s.tmo - 1 } := (if_pos hp).trans (if_pos hn)

theorem scPoll_times_out {s : State} (hp : s.counter.calPending = true) (hn : s.tmo = 0) :
    scPoll s = failUnscoped .timeout (logRead .status s) := (if_pos hp).trans (if_neg (by omega))

theorem failUnscoped_timeout_setcal {s : State} (ho : s.opl = .setcal) : failUnscoped .timeout s = { s with
    lock := false, ts := .idle, resp := s.resp.set s.owner (some [0x40000003#32]) } := by
  simp only [failUnscoped, finish, respond, setMailbox, ho]
  rfl

theorem scWr_eq {s : State} (hw : s.counter.wpen = false) : scWr s = { s with
    counter := { s.counter with cal := s.argCal, calWritten := true }
    hist := s.hist ++ [.wr .cal s.argCal], ts := .wsWpon } := by
  have hacc : s.counter.accepts .cal = true := by simp [Counter.accepts, hw]
  simp only [scWr, cwrite, s.counter.write_of_accepts .cal s.argCal hacc, Counter.put]

/-- Settles O42: the four states, `SC_POLL` by the flag it reads and the budget left. -/
theorem calibrationStates : Obligations.CalibrationStates := by
  intro s
  refine ⟨?read, ?clear, ?wait, ?timeout, ?unprotect, ?write⟩
  case read =>
    intro hts ho
    rw [advance_gcRd hts, gcRd_eq ho]
    rfl
  case clear => exact fun hts hp => (advance_scPoll hts).trans (congrArg _ (scPoll_clear hp))
  case wait => exact fun hts hp hn => (advance_scPoll hts).trans (congrArg _ (scPoll_waits hp hn))
  case timeout =>
    intro hts hp hn ho
    rw [advance_scPoll hts, scPoll_times_out hp hn]
    exact congrArg _ (failUnscoped_timeout_setcal (s := logRead .status s) ho)
  case unprotect => exact fun hts => advance_scWpoff hts
  case write =>
    intro hts hw
    rw [advance_scWr hts, scWr_eq hw]

/-! ### Two contending SETTIMEs (20_memory.md R78, 43_time_transactions.md R185) -/

/-- R78's contenders: a SETTIME free of argument errors (30_encoding.md R98). -/
def IsValidSettime (i : Instr) : Prop :=
  ∃ y mo d w h mi se, i = .settime y mo d w h mi se ∧ 0 ≤ y ∧ y ≤ 99 ∧ 0 ≤ w ∧ w ≤ 6

section
variable {s : State} {i : Instr}

theorem decode_encode_of_isValidSettime (hi : IsValidSettime i) (hwf : i.wf = true) : decode (encode i) = .ok i := by
  obtain ⟨_, _, _, _, _, _, _, rfl, -⟩ := hi
  exact decode_encode_settime hwf

/-- Checks 2 to 5 come next, as there is no argument error. -/
theorem exec_of_isValidSettime (hi : IsValidSettime i) (s : State) :
    ∃ d m, exec i s = .next (issueTransaction .settime false
      (fun u => { u with argDate := d, argTime := m }) s) := by
  obtain ⟨y, mo, d, w, h, mi, se, rfl, hy0, hy99, hw0, hw6⟩ := hi
  have hok : settimeOutOfRange y w = false := by simp [settimeOutOfRange]; omega
  exact ⟨dateWord y mo d w, timeWord h mi se, by rw [exec, execSettime, hok]⟩

/-- The issue step of a well-formed command next in the schedule, of a requester that does not own what is in flight. -/
theorem step_of_issue_encode {r : Nat} {rest : List Event} (hin : s.inputs = .issue r (encode i) :: rest)
    (hr : r < s.cfg.nreq) (hfree : ¬(s.lock = true ∧ s.owner = r)) (hdec : decode (encode i) = .ok i) :
    step s = exec i { s with inputs := rest, issuer := r } := by
  rw [step_of_mayIssue ⟨nextEvent_of_cons hin, hr, hfree⟩, issue_of_decode r _ hdec, useEvent_of_cons hin]

section
variable {r : Nat} {rest : List Event} (hi : IsValidSettime i) (hwf : i.wf = true)
  (hin : s.inputs = .issue r (encode i) :: rest) (hr : r < s.cfg.nreq) (hconf : s.configured = true)
include hi hwf hin hr hconf

/-- With nothing in flight it is accepted (R93 check 6). -/
theorem step_settime_accepted (hl : s.lock = false) :
    ∃ d m, step s = .next { accept .settime (openIssue { s with inputs := rest, issuer := r }) with
      argDate := d, argTime := m } := by
  obtain ⟨d, m, hexec⟩ := exec_of_isValidSettime hi { s with inputs := rest, issuer := r }
  have hacc : acceptanceError .settime { s with inputs := rest, issuer := r } = none :=
    (acceptanceError_eq_none _ _).mpr ⟨hl, nofun, fun _ => hconf⟩
  refine ⟨d, m, ?_⟩
  rw [step_of_issue_encode hin hr (by simp [hl]) (decode_encode_of_isValidSettime hi hwf), hexec,
    issueTransaction, hacc]
  rfl

/-- With another requester's transaction in flight it is answered `Busy` (R93 check 4). -/
theorem step_settime_busy (hl : s.lock = true) (ho : s.owner ≠ r) :
    step s = .next (setMailbox r (some [0x20000002#32]) { s with inputs := rest, issuer := r }) := by
  obtain ⟨d, m, hexec⟩ := exec_of_isValidSettime hi { s with inputs := rest, issuer := r }
  have hbusy : acceptanceError .settime { s with inputs := rest, issuer := r } = some .busy := by
    simp [acceptanceError, hconf, hl]
  rw [step_of_issue_encode hin hr (fun h => ho h.2) (decode_encode_of_isValidSettime hi hwf), hexec,
    issueTransaction, hbusy]
  exact congrArg _ (failInIssue_openIssue .settime .busy _ nofun)

end

end

/-- Settles O60: the first step takes the lock, so the second finds it held and writes its own mailbox only. -/
theorem contendingSettimesOneSucceeds : Obligations.ContendingSettimesOneSucceeds := by
  intro s r q i j rest hiwf hjwf hi hj hin hrq hr hq hresp hconf hlock
  obtain ⟨d, m, hfirst⟩ := step_settime_accepted hi hiwf hin hr hconf hlock
  have hsecond := step_settime_busy hj hjwf (s := { accept .settime (openIssue { s with
    inputs := .issue q (encode j) :: rest, issuer := r }) with argDate := d, argTime := m }) rfl hq hconf rfl hrq
  refine ⟨_, (runs_succ 1 hfirst).trans (runs_succ 0 hsecond), rfl, rfl, rfl, rfl, ?first, ?second⟩
  case first =>
    rw [mailbox_setMailbox_other _ _ _ _ hrq]
    exact mailbox_setMailbox_same r none s (hresp ▸ hr)
  case second => exact mailbox_setMailbox_same q _ _ (by simpa [hresp] using hq)

end Sys2Proof.Machine
end

section
/-! PROOF. The encoding statements (spec/30_encoding.md): decoder and encoder undo each other, R97's masks, the
malformed packets of R98, the time words of SETTIME and GETTIME, and what every command's issue step does and leaves. -/

namespace Sys2Proof

/-! ### Fields of packet words (30_encoding.md R91, R94) -/

/-- Below the opcode a header holds its argument. -/
theorem bits_header_arg (op : Op) {arg hi lo : Nat} (harg : arg < 2 ^ 28) (hlo : lo ≤ hi) (hhi : hi ≤ 27) :
    bits (header op arg) hi lo = arg / 2 ^ lo % 2 ^ (hi + 1 - lo) := by
  have hc : op.code < 16 := by cases op <;> decide
  have hpow : 2 ^ 28 = 2 ^ (27 - hi) * 2 ^ (hi + 1 - lo) * 2 ^ lo := by
    rw [← pow_add, ← pow_add]
    congr 1
    omega
  rw [header, bits_ofNat _ _ _ (by omega), hpow, ← mul_assoc, ← mul_assoc, Nat.add_comm,
    Nat.add_mul_div_right _ _ (by positivity), Nat.add_mul_mod_self_right]

/-- A header is its opcode and its argument. -/
theorem header_of_bits {op : Op} {w : Word} {arg : Nat} (hcode : bits w 31 28 = op.code) (harg : bits w 27 0 = arg) :
    header op arg = w := by
  apply BitVec.eq_of_toNat_eq
  rw [header, ← hcode, ← harg, BitVec.toNat_ofNat]
  simp only [bits]
  omega

/-- A field with zero bits above it is the larger field. -/
theorem bits_eq_of_upper_zero {w : Word} {hi mid : Nat} (hmid : mid ≤ hi) (h : bits w hi (mid + 1) = 0) :
    bits w hi 0 = bits w mid 0 := by
  have hpow : 2 ^ (hi + 1) = 2 ^ (mid + 1) * 2 ^ (hi + 1 - (mid + 1)) := by
    rw [← pow_add]
    congr 1
    omega
  simp only [bits, pow_zero, Nat.div_one, Nat.sub_zero] at h ⊢
  rw [hpow, Nat.mod_mul, h, mul_zero, add_zero]

theorem bits_wordOfInt (v : Int) : bits (wordOfInt v) 31 0 = field 32 v := by
  rw [wordOfInt, bits_ofNat _ _ _ (field_lt 32 v)]
  simpa using Nat.mod_eq_of_lt (field_lt 32 v)

theorem bit_eq_of_bits {w : Word} {i : Nat} {b : Bool} (h : bits w i i = b.toNat) : bit w i = b := by
  cases b
  · exact (bit_eq_false w i).mpr h
  · exact (bit_eq_true w i).mpr h

/-- `field` undoes `signed` on `n`-bit numbers. -/
theorem field_signed {n v : Nat} (hv : v < 2 ^ n) : field n (signed n v) = v := by
  have hv' : (v : Int) < 2 ^ n := by exact_mod_cast hv
  have hmod : signed n v % 2 ^ n = (v : Int) % 2 ^ n := by
    unfold signed
    split_ifs
    · rfl
    · exact Int.sub_emod_right _ _
  rw [field, hmod, Int.emod_eq_of_lt (by omega) hv', Int.toNat_natCast]

/-- An `n`-bit number read as two's complement is in range. -/
theorem inSigned_signed {n v : Nat} (hn : 0 < n) (hv : v < 2 ^ n) : inSigned n (signed n v) = true := by
  obtain ⟨m, rfl⟩ := Nat.exists_eq_add_of_lt hn
  have hpow : (2 : Int) ^ (m + 1) = 2 * 2 ^ m := by ring
  have hcast : ((2 ^ m : Nat) : Int) = 2 ^ m := by push_cast; rfl
  have hv' : (v : Int) < 2 ^ (m + 1) := by exact_mod_cast (Nat.zero_add m ▸ hv)
  simp only [inSigned, signed, decide_eq_true_eq, Nat.zero_add, Nat.add_sub_cancel, hpow] at *
  split_ifs <;> omega

/-! ### The decoder undoes the encoder (R94, R97, R103) -/

/-- The length and the opcode of every well-formed command's packet. -/
theorem encodeShape (i : Instr) : Laws.EncodeShape.Statement i := by
  cases i with
  | gettime => exact Laws.EncodeShape.gettime
  | settime => exact Laws.EncodeShape.settime _ _ _ _ _ _ _
  | getcal => exact Laws.EncodeShape.getcal
  | setcal ppb => exact Laws.EncodeShape.setcal ppb
  | config => exact Laws.EncodeShape.config
  | tobcd x => exact Laws.EncodeShape.tobcd x
  | frombcd b => exact Laws.EncodeShape.frombcd b
  | ppb2pulses ppb => exact Laws.EncodeShape.ppb2pulses ppb
  | pulses2ppb pulses => exact Laws.EncodeShape.pulses2ppb pulses
  | calenc pulses => exact Laws.EncodeShape.calenc pulses
  | caldec flag magnitude => exact Laws.EncodeShape.caldec flag magnitude

/-- `encode` gives the length and the opcode; what is left are the must-be-zero bits and the operands. -/
theorem decode_encode_of {i : Instr} (hwf : i.wf = true) (hzero : mustBeZeroHolds i.op (encode i) = true)
    (hops : operands i.op (encode i) = i) : decode (encode i) = .ok i := by
  obtain ⟨hlen, hcode⟩ := encodeShape i hwf
  rw [decode_of_fields hcode hlen hzero, hops]

/-- A signed word argument comes back. -/
theorem signed_bits_wordOfInt {v : Int} (hv : inSigned 32 v = true) : signed 32 (bits (wordOfInt v) 31 0) = v := by
  rw [bits_wordOfInt, signed_field 32 (by decide) v hv]

/-- A header with no argument has only its opcode set. -/
theorem bits_header_zero (op : Op) : bits (header op 0) 27 0 = 0 :=
  bits_header_arg op (by decide) (by decide) (by decide)

/-- A one-byte argument comes back, and the bits above it are 0. -/
theorem bits_header_byte (op : Op) {x : Nat} (hx : x < 2 ^ 8) :
    bits (header op x) 27 8 = 0 ∧ bits (header op x) 7 0 = x := by
  constructor <;> rw [bits_header_arg op (by omega) (by decide) (by decide)] <;> omega

/-- The same for a signed half-word argument. -/
theorem bits_header_half (op : Op) {v : Int} (hv : inSigned 16 v = true) :
    bits (header op (field 16 v)) 27 16 = 0 ∧ signed 16 (bits (header op (field 16 v)) 15 0) = v := by
  have hf := field_lt 16 v
  constructor <;> rw [bits_header_arg op (by omega) (by decide) (by decide)]
  · omega
  · rw [pow_zero, Nat.div_one, Nat.mod_eq_of_lt hf, signed_field 16 (by decide) v hv]

/-- The same for a flag and a magnitude. -/
theorem bits_header_flag (op : Op) (flag : Bool) {m : Nat} (hm : m ≤ 511) :
    bits (header op (flag.toNat * 2 ^ 15 + m)) 27 16 = 0 ∧
    bits (header op (flag.toNat * 2 ^ 15 + m)) 15 15 = flag.toNat ∧
    bits (header op (flag.toNat * 2 ^ 15 + m)) 14 9 = 0 ∧
    bits (header op (flag.toNat * 2 ^ 15 + m)) 8 0 = m := by
  have hf := flag.toNat_le
  refine ⟨?_, ?_, ?_, ?_⟩ <;> rw [bits_header_arg op (by omega) (by decide) (by decide)] <;> omega

/-- Settles O1: each command's operands come back from the fields its packet puts them in. -/
theorem decodeInvertsEncode : Obligations.DecodeInvertsEncode := by
  intro i hwf
  cases i with
  | gettime | getcal | config => rfl
  | settime => exact decode_encode_settime hwf
  | setcal ppb =>
    exact decode_encode_of hwf (beq_iff_eq.mpr (bits_header_zero .setcal))
      (congrArg Instr.setcal (signed_bits_wordOfInt hwf))
  | ppb2pulses ppb =>
    exact decode_encode_of hwf (beq_iff_eq.mpr (bits_header_zero .ppb2pulses))
      (congrArg Instr.ppb2pulses (signed_bits_wordOfInt hwf))
  | tobcd x =>
    obtain ⟨hzero, hx⟩ := bits_header_byte .tobcd (Nat.lt_succ_of_le (of_decide_eq_true hwf))
    exact decode_encode_of hwf (beq_iff_eq.mpr hzero) (congrArg Instr.tobcd hx)
  | frombcd b =>
    obtain ⟨hzero, hb⟩ := bits_header_byte .frombcd b.isLt
    refine decode_encode_of hwf (beq_iff_eq.mpr hzero) (congrArg Instr.frombcd ?_)
    rw [encode, hb, BitVec.ofNat_toNat, BitVec.setWidth_eq]
  | pulses2ppb pulses =>
    obtain ⟨hzero, hpulses⟩ := bits_header_half .pulses2ppb hwf
    exact decode_encode_of hwf (beq_iff_eq.mpr hzero) (congrArg Instr.pulses2ppb hpulses)
  | calenc pulses =>
    obtain ⟨hzero, hpulses⟩ := bits_header_half .calenc hwf
    exact decode_encode_of hwf (beq_iff_eq.mpr hzero) (congrArg Instr.calenc hpulses)
  | caldec flag magnitude =>
    obtain ⟨hzero, hflag, hgap, hmagnitude⟩ := bits_header_flag .caldec flag (of_decide_eq_true hwf)
    exact decode_encode_of hwf ((Bool.and_eq_true _ _).mpr ⟨beq_iff_eq.mpr hzero, beq_iff_eq.mpr hgap⟩)
      (congrArg₂ Instr.caldec (bit_eq_of_bits hflag) hmagnitude)

/-! ### The encoder undoes the decoder (R94, R97, R103) -/

/-- The opcode map has no two numbers for one name. -/
theorem Op.code_of_ofCode {n : Nat} {op : Op} (h : Op.ofCode n = some op) : n = op.code := by
  unfold Op.ofCode at h
  split at h <;> cases h <;> rfl

/-- What the decoder accepts, and the command it gives: the converse of `decode_of_fields`. -/
theorem fields_of_decode {p : Packet} {i : Instr} (h : decode p = .ok i) :
    ∃ op : Op, bits p.cw0 31 28 = op.code ∧ p.length = op.format.words ∧ mustBeZeroHolds op p = true ∧
      i = operands op p := by
  unfold decode at h
  cases hop : Op.ofCode (bits p.cw0 31 28) with
  | none => rw [hop] at h; cases h
  | some op =>
    rw [hop] at h
    dsimp only at h
    split_ifs at h with hlen hzero
    injection h with h
    exact ⟨op, Op.code_of_ofCode hop, not_not.mp hlen, hzero, h.symm⟩

/-- Every operand read from a packet fits the field it was read from. -/
theorem wf_operands {op : Op} {p : Packet} (hzero : mustBeZeroHolds op p = true) : (operands op p).wf = true := by
  cases op with
  | gettime | getcal | config | frombcd => rfl
  | setcal | ppb2pulses => exact inSigned_signed (by decide) (bits_lt _ 31 0)
  | pulses2ppb | calenc => exact inSigned_signed (by decide) (bits_lt _ 15 0)
  | tobcd => exact decide_eq_true (Nat.le_of_lt_succ (bits_lt _ 7 0))
  | caldec => exact decide_eq_true (Nat.le_of_lt_succ (bits_lt _ 8 0))
  | settime =>
    have hyear := inSigned_signed (n := 16) (by decide) (bits_lt p.cw1 31 16)
    have hwday := inSigned_signed (n := 8) (by decide) (bits_lt p.cw2 31 24)
    simp only [mustBeZeroHolds, Bool.and_eq_true, beq_iff_eq] at hzero
    obtain ⟨⟨⟨⟨⟨-, hmonth⟩, hday⟩, hhour⟩, hminute⟩, hsecond⟩ := hzero
    simp only [operands, Instr.wf, hyear, hwday, Bool.and_eq_true, decide_eq_true_eq, true_and, and_true]
    simp only [bits] at *
    omega

/-- A packet of as many words as a format has, written out. -/
theorem Packet.eq_of_length_one {p : Packet} (h : p.length = 1) : p = ⟨p.cw0, []⟩ := by
  obtain ⟨cw0, more⟩ := p
  match more with
  | [] => rfl
  | _ :: _ => simp [Packet.length] at h

theorem Packet.eq_of_length_two {p : Packet} (h : p.length = 2) : p = ⟨p.cw0, [p.cw1]⟩ := by
  obtain ⟨cw0, more⟩ := p
  match more with
  | [_] => rfl
  | [] => simp [Packet.length] at h
  | _ :: _ :: _ => simp [Packet.length] at h; omega

theorem Packet.eq_of_length_three {p : Packet} (h : p.length = 3) : p = ⟨p.cw0, [p.cw1, p.cw2]⟩ := by
  obtain ⟨cw0, more⟩ := p
  match more with
  | [_, _] => rfl
  | [] | [_] => simp [Packet.length] at h
  | _ :: _ :: _ :: _ => simp [Packet.length] at h; omega

theorem wordOfInt_signed (w : Word) : wordOfInt (signed 32 (bits w 31 0)) = w := by
  rw [wordOfInt, field_signed (bits_lt w 31 0), bits_all, BitVec.ofNat_toNat, BitVec.setWidth_eq]

/-- `W_DATE` is its three fields. -/
theorem packDate_of_bits (w : Word) :
    packDate (signed 16 (bits w 31 16)) (bits w 15 8) (bits w 7 0) = w := by
  apply BitVec.eq_of_toNat_eq
  rw [packDate, field_signed (bits_lt w 31 16), BitVec.toNat_ofNat]
  simp only [bits]
  omega

/-- `W_TIME` is its four fields. -/
theorem packTime_of_bits (w : Word) :
    packTime (signed 8 (bits w 31 24)) (bits w 23 16) (bits w 15 8) (bits w 7 0) = w := by
  apply BitVec.eq_of_toNat_eq
  rw [packTime, field_signed (bits_lt w 31 24), BitVec.toNat_ofNat]
  simp only [bits]
  omega

/-- The argument of a `CALDEC` header is its flag and its magnitude (R138). -/
theorem bits_caldec_arg {w : Word} (hzero : bits w 27 16 = 0) (hgap : bits w 14 9 = 0) :
    bits w 27 0 = (bit w 15).toNat * 2 ^ 15 + bits w 8 0 := by
  rw [bit_toNat]
  simp only [bits] at *
  omega

/-- Encoding the operands of an acceptable packet gives the packet back. -/
theorem encode_operands {op : Op} {p : Packet} (hcode : bits p.cw0 31 28 = op.code)
    (hlen : p.length = op.format.words) (hzero : mustBeZeroHolds op p = true) : encode (operands op p) = p := by
  have hheader : ∀ {arg}, bits p.cw0 27 0 = arg → header op arg = p.cw0 := header_of_bits hcode
  cases op with
  | gettime | getcal | config =>
    conv_rhs => rw [Packet.eq_of_length_one hlen]
    rw [operands, encode, hheader (beq_iff_eq.mp hzero)]
  | setcal | ppb2pulses =>
    conv_rhs => rw [Packet.eq_of_length_two hlen]
    rw [operands, encode, hheader (beq_iff_eq.mp hzero), wordOfInt_signed]
  | tobcd =>
    conv_rhs => rw [Packet.eq_of_length_one hlen]
    rw [operands, encode, hheader (bits_eq_of_upper_zero (by decide) (beq_iff_eq.mp hzero))]
  | frombcd =>
    conv_rhs => rw [Packet.eq_of_length_one hlen]
    rw [operands, encode, BitVec.toNat_ofNat, Nat.mod_eq_of_lt (bits_lt p.cw0 7 0),
      hheader (bits_eq_of_upper_zero (by decide) (beq_iff_eq.mp hzero))]
  | pulses2ppb | calenc =>
    conv_rhs => rw [Packet.eq_of_length_one hlen]
    rw [operands, encode, field_signed (bits_lt p.cw0 15 0),
      hheader (bits_eq_of_upper_zero (by decide) (beq_iff_eq.mp hzero))]
  | caldec =>
    simp only [mustBeZeroHolds, Bool.and_eq_true, beq_iff_eq] at hzero
    obtain ⟨hzero, hgap⟩ := hzero
    conv_rhs => rw [Packet.eq_of_length_one hlen]
    rw [operands, encode, hheader (bits_caldec_arg hzero hgap)]
  | settime =>
    simp only [mustBeZeroHolds, Bool.and_eq_true, beq_iff_eq] at hzero
    obtain ⟨⟨⟨⟨⟨hzero, -⟩, -⟩, -⟩, -⟩, -⟩ := hzero
    conv_rhs => rw [Packet.eq_of_length_three hlen]
    rw [operands, encode, hheader hzero, packDate_of_bits, packTime_of_bits]

/-- Settles O2: the packet is its opcode, its must-be-zero bits and its operands, and the encoder writes them back. -/
theorem encodeInvertsDecode : Obligations.EncodeInvertsDecode := by
  intro p i h
  obtain ⟨op, hcode, hlen, hzero, rfl⟩ := fields_of_decode h
  exact ⟨wf_operands hzero, encode_operands hcode hlen hzero⟩

/-! ### R97's masks -/

/-- The mask of a field of a word. -/
def fieldMask (hi lo : Nat) : Word := BitVec.ofNat 32 ((2 ^ (hi + 1 - lo) - 1) * 2 ^ lo)

/-- Masking a word with a field's mask leaves the field in its place. -/
theorem and_fieldMask (w : Word) (hi lo : Nat) : w &&& fieldMask hi lo = BitVec.ofNat 32 (bits w hi lo * 2 ^ lo) := by
  refine BitVec.eq_of_toNat_eq (Nat.eq_of_testBit_eq fun i => ?_)
  simp only [fieldMask, bits, BitVec.toNat_and, BitVec.toNat_ofNat, Nat.testBit_and, Nat.testBit_mod_two_pow,
    Nat.testBit_mul_two_pow, Nat.testBit_two_pow_sub_one, Nat.testBit_div_two_pow]
  rcases Nat.lt_or_ge i lo with hi | hi
  · simp [Nat.not_le.mpr hi]
  · rw [Nat.sub_add_cancel hi]
    ac_rfl

theorem and_fieldMask_eq_iff (w : Word) {hi lo v : Nat} (hlo : lo ≤ hi) (hhi : hi ≤ 31) (hv : v < 2 ^ (hi + 1 - lo)) :
    w &&& fieldMask hi lo = BitVec.ofNat 32 (v * 2 ^ lo) ↔ bits w hi lo = v := by
  have hpos : 0 < 2 ^ lo := by positivity
  have hfits : ∀ x, x < 2 ^ (hi + 1 - lo) → x * 2 ^ lo < 2 ^ 32 := fun x hx =>
    calc x * 2 ^ lo < 2 ^ (hi + 1 - lo) * 2 ^ lo := Nat.mul_lt_mul_of_pos_right hx hpos
      _ = 2 ^ (hi + 1) := by rw [← pow_add, Nat.sub_add_cancel (by omega)]
      _ ≤ 2 ^ 32 := Nat.pow_le_pow_right (by decide) (by omega)
  rw [and_fieldMask, ← BitVec.toNat_inj, BitVec.toNat_ofNat, BitVec.toNat_ofNat,
    Nat.mod_eq_of_lt (hfits _ (bits_lt w hi lo)), Nat.mod_eq_of_lt (hfits v hv), Nat.mul_left_inj hpos.ne']

theorem and_fieldMask_eq_zero_iff (w : Word) {hi lo : Nat} (hlo : lo ≤ hi) (hhi : hi ≤ 31) :
    w &&& fieldMask hi lo = 0#32 ↔ bits w hi lo = 0 := by
  simpa using and_fieldMask_eq_iff w hlo hhi (v := 0) (by positivity)

/-- A mask in two parts, the pattern being 0 in the second. -/
theorem and_or_eq_iff {w a b p : Word} (hp : p &&& b = 0#32) :
    w &&& (a ||| b) = p ↔ w &&& a = p ∧ w &&& b = 0#32 := by
  rw [BitVec.and_or_distrib_left]
  constructor
  · intro h
    have hb : w &&& b = 0#32 := by
      rw [← hp, ← h]
      ext i
      grind
    exact ⟨by simpa [hb] using h, hb⟩
  · rintro ⟨ha, hb⟩
    rw [ha, hb, BitVec.or_zero]

/-- The must-be-zero bits of a header (R94, R138). -/
def Op.zeroMask : Op → Word
  | .tobcd | .frombcd => fieldMask 27 8
  | .pulses2ppb | .calenc => fieldMask 27 16
  | .caldec => fieldMask 27 16 ||| fieldMask 14 9
  | .gettime | .settime | .getcal | .setcal | .config | .ppb2pulses => fieldMask 27 0

/-- R97's mask is the opcode's field and the must-be-zero bits. -/
theorem Op.mask_eq (op : Op) : op.mask = fieldMask 31 28 ||| op.zeroMask := by
  cases op <;> rfl

/-- R97's match is 0 in the must-be-zero bits. -/
theorem Op.pattern_and_zeroMask (op : Op) : op.pattern &&& op.zeroMask = 0#32 := by
  cases op <;> rfl

theorem and_zeroMask_eq_zero_iff (op : Op) (w : Word) :
    w &&& op.zeroMask = 0#32 ↔ mustBeZeroHolds op ⟨w, []⟩ = true := by
  have hfield : ∀ lo ≤ 27, w &&& fieldMask 27 lo = 0#32 ↔ (bits w 27 lo == 0) = true := fun lo hlo =>
    (and_fieldMask_eq_zero_iff w hlo (by decide)).trans beq_iff_eq.symm
  cases op with
  | gettime | getcal | config | setcal | ppb2pulses => exact hfield 0 (by decide)
  | tobcd | frombcd => exact hfield 8 (by decide)
  | pulses2ppb | calenc => exact hfield 16 (by decide)
  | caldec =>
    rw [Op.zeroMask, and_or_eq_iff BitVec.zero_and, hfield 16 (by decide),
      and_fieldMask_eq_zero_iff w (by decide) (by decide)]
    simp [mustBeZeroHolds]
  | settime =>
    have hlater : ∀ hi lo, bits 0#32 hi lo = 0 := by simp [bits]
    rw [Op.zeroMask, hfield 0 (by decide)]
    simp [mustBeZeroHolds, Packet.cw1, Packet.cw2, hlater]

/-- Settles O4: the mask's two parts, the opcode's field and the must-be-zero bits. -/
theorem headerMeetsMaskIffFieldsAgree : Obligations.HeaderMeetsMaskIffFieldsAgree := by
  intro op w
  have hcode : op.code < 2 ^ 4 := by cases op <;> decide
  rw [op.mask_eq, and_or_eq_iff op.pattern_and_zeroMask, Op.pattern,
    and_fieldMask_eq_iff w (by decide) (by decide) hcode, and_zeroMask_eq_zero_iff]

/-! ### Packets written out (R97, R103) -/

/-- Settles O3: the decoder evaluated. -/
theorem sampleWordsDecode : Obligations.SampleWordsDecode :=
  ⟨rfl, rfl, rfl, rfl, rfl, rfl, rfl⟩

end Sys2Proof

namespace Sys2Proof.Machine

/-! ### The translation of a snapshot (30_encoding.md R96, R101; 43_time_transactions.md R176, R186; log entry 8) -/

/-- A two-digit field read digit by digit. -/
theorem fromBCD_bits (w : Word) {hi lo : Nat} (hlo : lo + 4 ≤ hi) (hhi : hi ≤ lo + 7) :
    fromBCD (bits w hi lo) = 10 * bits w hi (lo + 4) + bits w (lo + 3) lo := by
  obtain ⟨k, rfl⟩ := Nat.exists_eq_add_of_le hlo
  have hk : k ≤ 3 := by omega
  have hwidth : lo + 4 + k + 1 - lo = k + 5 ∧ lo + 4 + k + 1 - (lo + 4) = k + 1 ∧ lo + 3 + 1 - lo = 4 := by omega
  obtain ⟨hall, hhigh, hlow⟩ := hwidth
  simp only [fromBCD, bits, hall, hhigh, hlow, pow_add _ lo 4, ← Nat.div_div_eq_div_mul]
  generalize w.toNat / 2 ^ lo = v
  interval_cases k <;> omega

/-- Two digits, up to 15 each where they are not BCD, stay within a byte. -/
theorem fromBCD_lt (b : Nat) : fromBCD b < 2 ^ 8 := by
  simp only [fromBCD]
  omega

theorem wdayFromHw_lt {h : Nat} (hh : h < 2 ^ 3) : wdayFromHw h < 2 ^ 8 := by
  unfold wdayFromHw
  split_ifs <;> omega

/-- A nonnegative number that fits is its own field. -/
theorem field_natCast {n v : Nat} (hv : v < 2 ^ n) : field n (v : Int) = v := by
  rw [field, Int.emod_eq_of_lt (by omega) (by exact_mod_cast hv), Int.toNat_natCast]

/-- The fields of `W_DATE` as R96 lays them out, for any bytes. -/
theorem packDate_bytes (year : Int) {month day : Nat} (hm : month < 2 ^ 8) (hd : day < 2 ^ 8) :
    bits (packDate year month day) 31 16 = field 16 year ∧ bits (packDate year month day) 15 8 = month ∧
    bits (packDate year month day) 7 0 = day := by
  have hy := field_lt 16 year
  simp only [packDate]
  refine ⟨?_, ?_, ?_⟩ <;> rw [bits_ofNat _ _ _ (by omega)] <;> omega

/-- The same for `W_TIME`. -/
theorem packTime_bytes (wday : Int) {hour minute second : Nat} (hh : hour < 2 ^ 8) (hm : minute < 2 ^ 8)
    (hs : second < 2 ^ 8) :
    bits (packTime wday hour minute second) 31 24 = field 8 wday ∧
    bits (packTime wday hour minute second) 23 16 = hour ∧
    bits (packTime wday hour minute second) 15 8 = minute ∧ bits (packTime wday hour minute second) 7 0 = second := by
  have hw := field_lt 8 wday
  simp only [packTime]
  refine ⟨?_, ?_, ?_, ?_⟩ <;> rw [bits_ofNat _ _ _ (by omega)] <;> omega

/-- R176's nanoseconds are a fraction of a second. -/
theorem nanoseconds_range {predivS ss : Nat} (hS : predivS ≤ 32767) (hss : ss ≤ predivS) :
    0 ≤ nanoseconds predivS ss ∧ nanoseconds predivS ss ≤ 999999999 := by
  have hn : (0 : Int) ≤ ((predivS : Int) - ss) * 1000000000 := by omega
  rw [nanoseconds, rdiv_of_nonneg _ hn]
  refine ⟨Int.ediv_nonneg (by omega) (by omega), Int.le_of_lt_add_one (Int.ediv_lt_of_lt_mul (by omega) ?_)⟩
  push_cast
  omega

theorem nanoseconds_self (predivS : Nat) : nanoseconds predivS predivS = 0 := by
  rw [nanoseconds, sub_self, zero_mul, rdiv_zero _ (Nat.succ_pos predivS)]

/-- Settles O17: each byte of the words is a translated field of the snapshot, which fits it. -/
theorem translationFields : Obligations.TranslationFields := by
  intro sd st
  obtain ⟨hyear, hmonth, hday⟩ := packDate_bytes (fromBCD (bits sd 23 16)) (fromBCD_lt (bits sd 12 8))
    (fromBCD_lt (bits sd 5 0))
  obtain ⟨hwday, hhour, hminute, hsecond⟩ := packTime_bytes (wdayFromHw (bits sd 15 13)) (fromBCD_lt (bits st 21 16))
    (fromBCD_lt (bits st 14 8)) (fromBCD_lt (bits st 6 0))
  refine ⟨?year, ?month, ?day, ?wday, ?hour, ?minute, ?second, fun predivS ss hS hss => ?nsec⟩
  case year =>
    rw [translateDate, hyear, field_natCast ((fromBCD_lt _).trans (by decide)),
      fromBCD_bits sd (by decide) (by decide)]
  case month => rw [translateDate, hmonth, fromBCD_bits sd (by decide) (by decide)]
  case day => rw [translateDate, hday, fromBCD_bits sd (by decide) (by decide)]
  case wday => rw [translateTime, hwday, field_natCast (wdayFromHw_lt (bits_lt sd 15 13)), wdayFromHw]
  case hour => rw [translateTime, hhour, fromBCD_bits st (by decide) (by decide)]
  case minute => rw [translateTime, hminute, fromBCD_bits st (by decide) (by decide)]
  case second => rw [translateTime, hsecond, fromBCD_bits st (by decide) (by decide)]
  case nsec =>
    obtain ⟨h0, hmax⟩ := nanoseconds_range hS hss
    exact ⟨h0, hmax, fun h => h ▸ nanoseconds_self ss⟩

theorem fromBCD_toBCD {x : Nat} (hx : x ≤ 99) : fromBCD (toBCD x) = x := by
  simp only [fromBCD, toBCD]
  omega

/-- The weekday code goes there and back, Sunday through 7 (R101). -/
theorem wdayFromHw_wdayToHw {w : Int} (h0 : 0 ≤ w) (h6 : w ≤ 6) : (wdayFromHw (wdayToHw w) : Int) = w := by
  unfold wdayFromHw wdayToHw
  split_ifs <;> omega

/-- Settles O18: by O16 the latched words hold the BCD of the operands, which the translation reads back. -/
theorem timeWordsRoundTrip : Obligations.TimeWordsRoundTrip := by
  intro year month day wday hour minute second hwf hy0 hy99 hw0 hw6
  obtain ⟨-, hyear, hwday, hmonth, -, hday, -, hhour, -, hminute, -, hsecond⟩ :=
    settimeWordFields year month day wday hour minute second hwf hy0 hy99 hw0 hw6
  simp only [Instr.wf, Bool.and_eq_true, decide_eq_true_eq] at hwf
  obtain ⟨⟨⟨⟨⟨⟨-, hm⟩, hd⟩, -⟩, hh⟩, hmi⟩, hs⟩ := hwf
  rw [translateDate, translateTime, hyear, hwday, hmonth, hday, hhour, hminute, hsecond,
    fromBCD_toBCD (show year.toNat ≤ 99 by omega), fromBCD_toBCD (show month ≤ 99 by omega),
    fromBCD_toBCD (show day ≤ 99 by omega), fromBCD_toBCD (show hour ≤ 99 by omega),
    fromBCD_toBCD (show minute ≤ 99 by omega), fromBCD_toBCD (show second ≤ 99 by omega),
    Int.toNat_of_nonneg hy0, ← wdayToHw, wdayFromHw_wdayToHw hw0 hw6, encode]

/-! ### Malformed packets (R95, R98) -/

/-- Each opcode leaves one clause of R98, and the decoder has checked that clause's length and bits. -/
theorem not_isMalformed_of_fields {op : Op} {p : Packet} (hcode : bits p.cw0 31 28 = op.code)
    (hlen : p.length = op.format.words) (hzero : mustBeZeroHolds op p = true) : ¬IsMalformed p := by
  unfold IsMalformed
  rw [hcode, hlen]
  cases op <;> simp_all [Op.code, Op.format, Format.words, mustBeZeroHolds]

/-- R98's packets are among those the decoder refuses. -/
theorem decode_error_of_isMalformed {p : Packet} (h : IsMalformed p) : ∃ e, decode p = .error e := by
  cases hd : decode p with
  | error e => exact ⟨e, rfl⟩
  | ok i =>
    obtain ⟨op, hcode, hlen, hzero, -⟩ := fields_of_decode hd
    exact absurd h (not_isMalformed_of_fields hcode hlen hzero)

theorem issue_of_decode_error {p : Packet} {e : Malformed} (r : Nat) (s : State) (h : decode p = .error e) :
    issue r p s = .next (setMailbox r (some [responseHeader (bits p.cw0 31 28) .invalidArgument])
      { s with issuer := r }) := by
  rw [issue, h]
  exact congrArg _ (answerMalformed_eq p.cw0 { s with issuer := r })

/-- Settles O7: the decoder refuses the packet, and its refusal is answered. -/
theorem malformedPacketAnswered : Obligations.MalformedPacketAnswered := by
  intro s r p hmay hmal
  obtain ⟨e, he⟩ := decode_error_of_isMalformed hmal
  rw [step_of_mayIssue hmay, issue_of_decode_error r _ he, ← useEvent_resp s]
  rfl

/-! ### Every command's issue step: what it answers and what it leaves (R92) -/

/-- Settles O33: a pure operation's issue step is `answerPure`, whatever its result. -/
theorem pureOpsTouchOnlyMailbox : Obligations.PureOpsTouchOnlyMailbox := by
  intro i s hop
  have answers : ∀ (op : Op) (result : Option (List Word)), exec i s = .next (answerPure op result s) →
      ∃ w ws, exec i s = .next { s with resp := s.resp.set s.issuer (some (w :: ws)) } := by
    intro op result h
    obtain ⟨w, ws, hw⟩ := answerPure_eq_setMailbox op result s
    exact ⟨w, ws, by rw [h, hw, setMailbox]⟩
  cases i with
  | tobcd | frombcd | ppb2pulses | pulses2ppb | calenc | caldec => exact answers _ _ rfl
  | gettime | settime | getcal | setcal | config => simp [Instr.op] at hop

/-- Settles O34: an answer writes the requester's mailbox, an acceptance that and the registers of the transaction. -/
theorem issueMakesNoAccess : Obligations.IssueMakesNoAccess := by
  intro i s
  have others : ∀ v r, r ≠ s.issuer → (setMailbox s.issuer v s).mailbox r = s.mailbox r :=
    fun v r hr => mailbox_setMailbox_other s.issuer r v s hr
  rcases exec_cases i s with ⟨w, ws, h⟩ | ⟨t, d, m, c, n, k, -, h⟩
  · exact ⟨_, h, rfl, rfl, others _, rfl, rfl, rfl, rfl, rfl, rfl, rfl, rfl, rfl, rfl, rfl, rfl, rfl, rfl⟩
  · exact ⟨_, h, rfl, rfl, others none, rfl, rfl, rfl, rfl, rfl, rfl, rfl, rfl, rfl, rfl, rfl, rfl, rfl, rfl⟩

/-! ### The issue step of a transaction (R93, R98) -/

theorem issueTransaction_accepted {t : Transaction} {s : State} (latch : State → State)
    (h : acceptanceError t s = none) : issueTransaction t false latch s = latch (accept t (openIssue s)) := by
  simp [issueTransaction, h]

theorem issueTransaction_refused {t : Transaction} {s : State} {e : Status} (latch : State → State)
    (h : acceptanceError t s = some e) :
    issueTransaction t false latch s = setMailbox s.issuer (some [responseHeader t.op.code e]) s := by
  rw [← failInIssue_openIssue _ _ _ (acceptanceError_ne_ok t s e h)]
  simp [issueTransaction, h]

/-- Check 1 comes before the state is looked at. -/
theorem issueTransaction_argumentError (t : Transaction) (latch : State → State) (s : State) :
    issueTransaction t true latch s = setMailbox s.issuer (some [responseHeader t.op.code .invalidArgument]) s :=
  failInIssue_openIssue t.op .invalidArgument s nofun

/-- A configured block with nothing in flight accepts every transaction but CONFIG. -/
theorem issueTransaction_of_configured {t : Transaction} (ht : t ≠ .config) (latch : State → State) {s : State}
    (hconf : s.configured = true) (hlock : s.lock = false) :
    issueTransaction t false latch s = latch (accept t (openIssue s)) :=
  issueTransaction_accepted latch ((acceptanceError_eq_none t s).mpr ⟨hlock, fun h => absurd h ht, fun _ => hconf⟩)

theorem latchGettime_rty (s : State) :
    latchGettime s = { s with rty := if s.cfg.readRetryCap.isSome then 0 else s.rty } := by
  unfold latchGettime
  split <;> simp_all

theorem settimeOutOfRange_eq_false {year wday : Int} (hy0 : 0 ≤ year) (hy99 : year ≤ 99) (hw0 : 0 ≤ wday)
    (hw6 : wday ≤ 6) : settimeOutOfRange year wday = false := by
  simp only [settimeOutOfRange, decide_eq_false_iff_not]
  omega

theorem ppbOutOfRange_iff (ppb : Int) : ppbOutOfRange ppb = true ↔ ppb < -487328 ∨ 488281 < ppb :=
  decide_eq_true_iff

theorem ppbOutOfRange_eq_false {ppb : Int} (hmin : -487328 ≤ ppb) (hmax : ppb ≤ 488281) :
    ppbOutOfRange ppb = false := by
  rw [Bool.eq_false_iff, ne_eq, ppbOutOfRange_iff]
  omega

/-- Settles O25: accepted, and the latch is R170's. -/
theorem gettimeAccepted : Obligations.GettimeAccepted := by
  intro s hconf hlock
  rw [exec, execGettime, issueTransaction_of_configured (by decide) _ hconf hlock, latchGettime_rty]
  rfl

/-- Settles O26: no argument error, accepted, and the latch is R182's. -/
theorem settimeAccepted : Obligations.SettimeAccepted := by
  intro s year month day wday hour minute second hconf hlock hy0 hy99 hw0 hw6
  rw [exec, execSettime, settimeOutOfRange_eq_false hy0 hy99 hw0 hw6,
    issueTransaction_of_configured (by decide) _ hconf hlock]
  rfl

/-- Settles O27: no argument error, accepted, and nothing latched. -/
theorem getcalAccepted : Obligations.GetcalAccepted := by
  intro s hcal hconf hlock
  rw [exec, execGetcal, hcal, Bool.not_true, issueTransaction_of_configured (by decide) _ hconf hlock]
  rfl

/-- Settles O29: accepted, and nothing latched. -/
theorem configAccepted : Obligations.ConfigAccepted := by
  intro s hconf hlock hclk
  have hacc : acceptanceError .config s = none :=
    (acceptanceError_eq_none .config s).mpr ⟨hlock, fun _ => ⟨hconf, hclk⟩, fun h => absurd rfl h⟩
  rw [exec, execConfig, issueTransaction_accepted _ hacc]
  rfl

/-- Settles O30: check 1 fails. -/
theorem transactionArgumentErrors : Obligations.TransactionArgumentErrors := by
  refine ⟨?settime, ?getcal, ?setcal⟩
  case settime =>
    intro s year month day wday hour minute second h
    have herr : settimeOutOfRange year wday = true := decide_eq_true h
    rw [exec, execSettime, herr, issueTransaction_argumentError]
    rfl
  case getcal =>
    intro s hcal
    rw [exec, execGetcal, hcal, Bool.not_false, issueTransaction_argumentError]
    rfl
  case setcal =>
    intro s ppb h
    have herr : (!s.cfg.hasSmoothCal || ppbOutOfRange ppb) = true := by simpa [ppbOutOfRange_iff] using h
    rw [exec, execSetcal, herr, issueTransaction_argumentError]
    rfl

/-- The status stands in the low bits of the header, which are 0 for `OK`. -/
theorem responseHeader_eq_add (n : Nat) (e : Status) :
    responseHeader n e = responseHeader n .ok + BitVec.ofNat 32 e.code := by
  rw [responseHeader, BitVec.ofNat_add, responseHeader, show Status.ok.code = 0 from rfl, Nat.add_zero]

/-- Settles O31: none of the four has an argument error, so check 3 or 4 is the first that fails. -/
theorem transactionsTurnedAway : Obligations.TransactionsTurnedAway := by
  intro s i h hi
  have goesOn : ∃ t latch, t ≠ .config ∧ responseHeader t.op.code .ok = h ∧
      exec i s = .next (issueTransaction t false latch s) := by
    rcases hi with ⟨rfl, rfl⟩ | ⟨_, _, _, _, _, _, _, rfl, hy0, hy99, hw0, hw6, rfl⟩ | ⟨rfl, hcal, rfl⟩ |
      ⟨_, rfl, hcal, hmin, hmax, rfl⟩
    · exact ⟨.gettime, _, nofun, rfl, rfl⟩
    · exact ⟨.settime, _, nofun, rfl, by rw [exec, execSettime, settimeOutOfRange_eq_false hy0 hy99 hw0 hw6]⟩
    · exact ⟨.getcal, _, nofun, rfl, by rw [exec, execGetcal, hcal, Bool.not_true]⟩
    · exact ⟨.setcal, _, nofun, rfl,
        by rw [exec, execSetcal, hcal, ppbOutOfRange_eq_false hmin hmax, Bool.not_true, Bool.or_false]⟩
  obtain ⟨t, latch, ht, rfl, hexec⟩ := goesOn
  refine ⟨fun hconf => ?_, fun hconf hlock => ?_⟩
  · have hfirst : acceptanceError t s = some .deviceNotReady := by simp [acceptanceError, ht, hconf]
    rw [hexec, issueTransaction_refused _ hfirst, responseHeader_eq_add]
    rfl
  · have hfirst : acceptanceError t s = some .busy := by simp [acceptanceError, ht, hconf, hlock]
    rw [hexec, issueTransaction_refused _ hfirst, responseHeader_eq_add]
    rfl

/-- Settles O32: the first of R93's checks that fails names the status. -/
theorem configTurnedAway : Obligations.ConfigTurnedAway := by
  intro s
  have answers : ∀ e, acceptanceError .config s = some e →
      exec .config s = .next (setMailbox s.issuer (some [responseHeader Op.config.code e]) s) :=
    fun e he => congrArg _ (issueTransaction_refused _ he)
  exact ⟨fun hconf => answers .invalidArgument (by simp [acceptanceError, hconf]),
    fun hconf hlock => answers .busy (by simp [acceptanceError, hconf, hlock]),
    fun hconf hlock hclk => answers .deviceNotReady (by simp [acceptanceError, hconf, hlock, hclk])⟩

end Sys2Proof.Machine
end

section
/-! PROOF. The statements of the BCD codec (spec/40_bcd_codec.md): its laws, and the commands TOBCD and FROMBCD. -/

namespace Sys2Proof.Machine

/-! ### The codec's laws (40_bcd_codec.md R120, R121, R124) -/

theorem validBCD_iff (b : Nat) : validBCD b = true ↔ b / 16 ≤ 9 ∧ b % 16 ≤ 9 :=
  decide_eq_true_iff

/-- The digits of `toBCD x` are the decimal digits of `x`. -/
theorem toBCD_digits (x : Nat) : toBCD x / 16 = x / 10 ∧ toBCD x % 16 = x % 10 := by
  simp only [toBCD]
  omega

theorem validBCD_toBCD {x : Nat} (hx : x ≤ 99) : validBCD (toBCD x) = true := by
  obtain ⟨hhigh, hlow⟩ := toBCD_digits x
  rw [validBCD_iff, hhigh, hlow]
  omega

/-- A valid byte has no bits above its two digits, so the high digit is read whole. -/
theorem fromBCD_of_validBCD {b : Nat} (hb : validBCD b = true) : fromBCD b = 10 * (b / 16) + b % 16 := by
  obtain ⟨hhigh, -⟩ := (validBCD_iff b).mp hb
  rw [fromBCD, Nat.mod_eq_of_lt (show b / 16 < 16 by omega)]

theorem fromBCD_le_of_validBCD {b : Nat} (hb : validBCD b = true) : fromBCD b ≤ 99 := by
  obtain ⟨hhigh, hlow⟩ := (validBCD_iff b).mp hb
  rw [fromBCD_of_validBCD hb]
  omega

theorem toBCD_fromBCD {b : Nat} (hb : validBCD b = true) : toBCD (fromBCD b) = b := by
  obtain ⟨-, hlow⟩ := (validBCD_iff b).mp hb
  rw [fromBCD_of_validBCD hb, toBCD]
  omega

/-- The carry from the low digit adds 16 where the low digit loses 9 at most. -/
theorem toBCD_strictMono : StrictMono toBCD := by
  intro x y hxy
  simp only [toBCD]
  omega

/-- Settles O12: the round trips digit by digit, and each field's width by monotonicity from the width's end. -/
theorem bcdCodecLaws : Obligations.BcdCodecLaws :=
  ⟨fun _ hx => ⟨fromBCD_toBCD hx, validBCD_toBCD hx⟩,
    fun _ hb => ⟨fromBCD_le_of_validBCD hb, toBCD_fromBCD hb⟩,
    fun _ _ hxy _ => toBCD_strictMono hxy,
    fun _ => ⟨toBCD_le, toBCD_le, toBCD_le⟩⟩

/-! ### TOBCD and FROMBCD (40_bcd_codec.md R122, R123) -/

theorem execTobcd_of_le {x : Nat} (hx : x ≤ 99) (s : State) :
    execTobcd x s =
      .next (setMailbox s.issuer (some [responseHeader Op.tobcd.code .ok, BitVec.ofNat 32 (toBCD x)]) s) := by
  rw [execTobcd, if_neg (Nat.not_lt.mpr hx), answerPure_some]

theorem execTobcd_of_gt {x : Nat} (hx : 99 < x) (s : State) :
    execTobcd x s = .next (setMailbox s.issuer (some [responseHeader Op.tobcd.code .invalidArgument]) s) := by
  rw [execTobcd, if_pos hx, answerPure_none]

theorem execFrombcd_eq (b : Byte) (s : State) :
    execFrombcd b s =
      .next (setMailbox s.issuer (some [responseHeader Op.frombcd.code .ok, BitVec.ofNat 32 (fromBCD b.toNat)]) s) := by
  rw [execFrombcd, answerPure_some]

/-- A byte has no bits above its two digits, valid or not. -/
theorem fromBCD_byte (b : Byte) : fromBCD b.toNat = 10 * (b.toNat / 2 ^ 4) + b.toNat % 2 ^ 4 := by
  have hb := b.isLt
  simp only [fromBCD]
  omega

/-- Settles O19: the packet is the encoder's, and the answer follows R122's test. -/
theorem tobcdAnswers : Obligations.TobcdAnswers := by
  refine ⟨fun x hx => decodeInvertsEncode (.tobcd x) (decide_eq_true hx), fun x s => ?answer⟩
  case answer =>
    rw [exec]
    rcases Nat.lt_or_ge 99 x with hx | hx
    · rw [execTobcd_of_gt hx, if_neg (Nat.not_le.mpr hx)]
      rfl
    · rw [execTobcd_of_le hx, if_pos hx]
      rfl

/-- Settles O20: the packet is the encoder's, and every byte is answered. -/
theorem frombcdAnswers : Obligations.FrombcdAnswers := by
  refine ⟨fun b => decodeInvertsEncode (.frombcd b) rfl, fun b s => ?answer⟩
  case answer =>
    rw [exec, execFrombcd_eq, fromBCD_byte]
    rfl

end Sys2Proof.Machine
end

section
/-! PROOF. The statements of the calibration converter (spec/41_calibration_converter.md): the two conversions and their
round trips, the fields of a `CAL` word, and the four commands. -/

namespace Sys2Proof.Machine

/-! ### The conversions (41_calibration_converter.md R131, R133, R139) -/

/-- Rounding moves a quotient by at most one half, either way (00_scope.md R9). -/
theorem rdiv_near (n : Int) {d : Nat} (hd : 0 < d) :
    -(d : Int) ≤ 2 * (n - rdiv n d * d) ∧ 2 * (n - rdiv n d * d) ≤ d := by
  obtain ⟨hnear, -⟩ := rdiv_nearest n hd
  have hlo := neg_abs_le (n - rdiv n d * d)
  have hhi := le_abs_self (n - rdiv n d * d)
  omega

/-- `ppbToPulses` rounds by at most half a pulse. -/
theorem ppbToPulses_near (ppb : Int) :
    -1953125 ≤ 2 * (ppb * 2048 - ppbToPulses ppb * 1953125) ∧
      2 * (ppb * 2048 - ppbToPulses ppb * 1953125) ≤ 1953125 :=
  rdiv_near (ppb * 2048) (d := 1953125) (by decide)

/-- `pulsesToPpb` rounds by at most half a ppb. -/
theorem pulsesToPpb_near (p : Int) :
    -2048 ≤ 2 * (p * 1953125 - pulsesToPpb p * 2048) ∧ 2 * (p * 1953125 - pulsesToPpb p * 2048) ≤ 2048 :=
  rdiv_near (p * 1953125) (d := 2048) (by decide)

/-- A ppb less than half a pulse away from `p` pulses converts to `p`. -/
theorem ppbToPulses_eq {ppb p : Int} (hlo : -1953125 < 2 * (ppb * 2048 - p * 1953125))
    (hhi : 2 * (ppb * 2048 - p * 1953125) < 1953125) : ppbToPulses ppb = p := by
  have := ppbToPulses_near ppb
  omega

/-- Half a ppb is far below half a pulse, so rounding to ppb loses no pulse. -/
theorem ppbToPulses_pulsesToPpb (p : Int) : ppbToPulses (pulsesToPpb p) = p := by
  obtain ⟨hlo, hhi⟩ := pulsesToPpb_near p
  exact ppbToPulses_eq (by omega) (by omega)

/-- The two roundings together: half a pulse, 476.84 ppb, and half a ppb. -/
theorem abs_pulsesToPpb_ppbToPulses_sub_le (ppb : Int) : |pulsesToPpb (ppbToPulses ppb) - ppb| ≤ 477 := by
  have hpulses := ppbToPulses_near ppb
  have hppb := pulsesToPpb_near (ppbToPulses ppb)
  exact abs_le.mpr (by omega)

/-- Every accepted ppb converts to a pulse count `CAL` can hold (R133). -/
theorem ppbToPulses_mem {ppb : Int} (hmin : -487328 ≤ ppb) (hmax : ppb ≤ 488281) :
    -511 ≤ ppbToPulses ppb ∧ ppbToPulses ppb ≤ 512 := by
  have := ppbToPulses_near ppb
  omega

/-- Nothing above -487805 converts to 512 pulses removed (R133). -/
theorem le_of_ppbToPulses_eq_neg_512 {ppb : Int} (h : ppbToPulses ppb = -512) : ppb ≤ -487805 := by
  have := ppbToPulses_near ppb
  omega

/-- Settles O14: all from the two rounding bounds; the bounds' own values are closed evaluations. -/
theorem calibrationRoundTrip : Obligations.CalibrationRoundTrip :=
  have hmax : maxPpb = pulsesToPpb 512 := by decide
  have hmin : minPpb = pulsesToPpb (-511) := by decide
  ⟨hmax, rfl, hmin, rfl,
    hmax ▸ ppbToPulses_pulsesToPpb 512,
    hmin ▸ ppbToPulses_pulsesToPpb (-511),
    fun _ hlo hhi => ppbToPulses_eq (by omega) (by omega),
    fun _ hlo hhi => ppbToPulses_eq (by omega) (by omega),
    fun _ h => le_of_ppbToPulses_eq_neg_512 h,
    by decide,
    fun ppb hlo hhi =>
      ⟨(ppbToPulses_mem hlo hhi).1, (ppbToPulses_mem hlo hhi).2, abs_pulsesToPpb_ppbToPulses_sub_le ppb⟩,
    by decide,
    fun p _ _ => ppbToPulses_pulsesToPpb p⟩

/-! ### The fields of a `CAL` word (R132) -/

theorem calDecode_true (m : Nat) : calDecode true m = 512 - m := rfl

theorem calDecode_false (m : Nat) : calDecode false m = -m := Int.zero_sub _

theorem calDecode_mem (flag : Bool) {m : Nat} (hm : m ≤ 511) :
    -511 ≤ calDecode flag m ∧ calDecode flag m ≤ 512 := by
  cases flag
  · rw [calDecode_false]
    omega
  · rw [calDecode_true]
    omega

/-- The magnitude never uses up the 512 pulses of the flag, so the flag is the sign. -/
theorem calDecode_pos_iff (flag : Bool) {m : Nat} (hm : m ≤ 511) : 0 < calDecode flag m ↔ flag = true := by
  cases flag
  · rw [calDecode_false]
    simp
  · rw [calDecode_true]
    simp only [iff_true]
    omega

/-- Every pulse count `CAL` can hold is decoded from some field pair. -/
theorem exists_calDecode_eq {p : Int} (hmin : -511 ≤ p) (hmax : p ≤ 512) :
    ∃ flag m, m ≤ 511 ∧ calDecode flag m = p := by
  rcases lt_or_ge 0 p with hp | hp
  · exact ⟨true, (512 - p).toNat, by omega, by rw [calDecode_true]; omega⟩
  · exact ⟨false, (-p).toNat, by omega, by rw [calDecode_false]; omega⟩

/-- The word of a field pair: the flag in bit 15, the magnitude below it. -/
theorem calEncode_calDecode (flag : Bool) {m : Nat} (hm : m ≤ 511) :
    calEncode (calDecode flag m) = BitVec.ofNat 32 (flag.toNat * 2 ^ 15 + m) := by
  cases flag
  · rw [calEncode, if_neg (by simp [calDecode_pos_iff false hm]), calDecode_false]
    congr 1
    simp
  · rw [calEncode, if_pos ((calDecode_pos_iff true hm).mpr rfl), calDecode_true, calPlus]
    congr 1
    simp

theorem calEncode_calDecode_fields (flag : Bool) {m : Nat} (hm : m ≤ 511) :
    calpBit (calEncode (calDecode flag m)) = flag ∧ calmField (calEncode (calDecode flag m)) = m ∧
    bits (calEncode (calDecode flag m)) 31 16 = 0 ∧ bits (calEncode (calDecode flag m)) 14 9 = 0 := by
  have hflag := flag.toNat_le
  rw [calEncode_calDecode flag hm, calpBit, calmField]
  refine ⟨bit_eq_of_bits ?_, ?_, ?_, ?_⟩ <;> rw [bits_ofNat _ _ _ (by omega)] <;> omega

/-- The `CAL` word of a representable count by the sign of the count (R132). -/
theorem calEncode_eq_ofInt {p : Int} (hmax : p ≤ 512) :
    calEncode p = if 0 < p then BitVec.ofInt 32 (2 ^ 15 + (512 - p)) else BitVec.ofInt 32 (-p) := by
  rw [calEncode]
  split_ifs with hp
  · rw [← BitVec.ofInt_natCast, calPlus]
    congr 1
    omega
  · rw [← BitVec.ofInt_natCast]
    congr 1
    omega

/-- Settles O15: every representable count is decoded from a field pair, and the fields of that pair's word are the
pair. -/
theorem calFieldsBijective : Obligations.CalFieldsBijective := by
  refine ⟨fun p hmin hmax => ?encoded, fun flag m hm => ?decoded⟩
  case encoded =>
    obtain ⟨flag, m, hm, rfl⟩ := exists_calDecode_eq hmin hmax
    obtain ⟨hcalp, hcalm, hupper, hgap⟩ := calEncode_calDecode_fields flag hm
    refine ⟨by rw [hcalp, hcalm], ?_, ?_, hupper, hgap⟩
    · simp [hcalp, calDecode_pos_iff flag hm]
    · rw [hcalm]
      simp only [calDecode_pos_iff flag hm]
      cases flag
      · simp [calDecode_false]
      · simp [calDecode_true]
  case decoded =>
    obtain ⟨hcalp, hcalm, -⟩ := calEncode_calDecode_fields flag hm
    obtain ⟨hmin, hmax⟩ := calDecode_mem flag hm
    exact ⟨rfl, hmin, hmax, hcalp, hcalm⟩

/-! ### Signed operands and results (00_scope.md R8) -/

theorem field_toInt {n : Nat} (v : BitVec n) : field n v.toInt = v.toNat := by
  have hv : (v.toNat : Int) < 2 ^ n := by exact_mod_cast v.isLt
  have hmod : v.toInt % 2 ^ n = v.toNat % 2 ^ n := by
    rw [BitVec.toInt_eq_toNat_bmod]
    exact_mod_cast Int.bmod_emod
  rw [field, hmod, Int.emod_eq_of_lt (by omega) hv, Int.toNat_natCast]

theorem inSigned_toInt {n : Nat} (v : BitVec n) : inSigned n v.toInt = true :=
  decide_eq_true ⟨BitVec.le_toInt v, BitVec.toInt_lt⟩

/-! ### The four commands (41_calibration_converter.md R135 to R138, R140) -/

theorem pulsesOutOfRange_iff (p : Int) : pulsesOutOfRange p = true ↔ p < -511 ∨ 512 < p :=
  decide_eq_true_iff

/-- A command that answers one word when it accepts its operand, and `InvalidArgument` when not. -/
theorem answerPure_ite (op : Op) (accepted : Prop) [Decidable accepted] (w : Word) (s : State) :
    answerPure op (if accepted then some [w] else none) s =
      setMailbox s.issuer
        (some (if accepted then [responseHeader op.code .ok, w] else [responseHeader op.code .invalidArgument])) s := by
  split_ifs
  · exact answerPure_some op [w] s
  · exact answerPure_none op s

theorem execPpb2pulses_eq (ppb : Int) (s : State) :
    execPpb2pulses ppb s =
      .next (answerPure .ppb2pulses
        (if s.cfg.hasSmoothCal = true ∧ -487328 ≤ ppb ∧ ppb ≤ 488281 then some [wordOfInt (ppbToPulses ppb)]
         else none) s) := by
  rw [execPpb2pulses, ite_not, ite_and, ← ite_not (ppbOutOfRange ppb = true)]
  simp only [ppbOutOfRange_iff, not_or, not_lt]

theorem execPulses2ppb_eq (pulses : Int) (s : State) :
    execPulses2ppb pulses s =
      .next (answerPure .pulses2ppb
        (if s.cfg.hasSmoothCal = true then some [wordOfInt (pulsesToPpb pulses)] else none) s) := by
  rw [execPulses2ppb, ite_not]

theorem execCalenc_eq (pulses : Int) (s : State) :
    execCalenc pulses s =
      .next (answerPure .calenc
        (if s.cfg.hasSmoothCal = true ∧ -511 ≤ pulses ∧ pulses ≤ 512 then some [calEncode pulses] else none) s) := by
  rw [execCalenc, ite_not, ite_and, ← ite_not (pulsesOutOfRange pulses = true)]
  simp only [pulsesOutOfRange_iff, not_or, not_lt]

theorem execCaldec_eq (flag : Bool) (magnitude : Nat) (s : State) :
    execCaldec flag magnitude s =
      .next (answerPure .caldec
        (if s.cfg.hasSmoothCal = true then some [wordOfInt (calDecode flag magnitude)] else none) s) := by
  rw [execCaldec, ite_not]

/-- Settles O21: the packet is the encoder's, and the answer follows R135's two tests. -/
theorem ppb2pulsesAnswers : Obligations.Ppb2pulsesAnswers := by
  refine ⟨fun w => ?packet, fun ppb s => ?answer⟩
  case packet =>
    have h := decodeInvertsEncode (.ppb2pulses w.toInt) (inSigned_toInt w)
    rw [encode, wordOfInt_eq_ofInt, BitVec.ofInt_toInt] at h
    exact h
  case answer =>
    rw [exec, execPpb2pulses_eq, answerPure_ite, wordOfInt_eq_ofInt]
    rfl

/-- Settles O22: the packet is the encoder's, and only the capability is tested. -/
theorem pulses2ppbAnswers : Obligations.Pulses2ppbAnswers := by
  refine ⟨fun v => ?packet, fun pulses s => ?answer⟩
  case packet =>
    have h := decodeInvertsEncode (.pulses2ppb v.toInt) (inSigned_toInt v)
    rw [encode, field_toInt] at h
    exact h
  case answer =>
    rw [exec, execPulses2ppb_eq, answerPure_ite, wordOfInt_eq_ofInt]
    rfl

/-- Settles O23: the packet is the encoder's, and the answer follows R137's two tests. -/
theorem calencAnswers : Obligations.CalencAnswers := by
  refine ⟨fun v => ?packet, fun pulses s => ?answer⟩
  case packet =>
    have h := decodeInvertsEncode (.calenc v.toInt) (inSigned_toInt v)
    rw [encode, field_toInt] at h
    exact h
  case answer =>
    rw [exec, execCalenc_eq, answerPure_ite]
    by_cases haccepted : s.cfg.hasSmoothCal = true ∧ -511 ≤ pulses ∧ pulses ≤ 512
    · rw [if_pos haccepted, if_pos haccepted]
      obtain ⟨-, -, hmax⟩ := haccepted
      rw [calEncode_eq_ofInt hmax]
      rfl
    · rw [if_neg haccepted, if_neg haccepted]
      rfl

/-- Settles O24: the packet is the encoder's, and only the capability is tested. -/
theorem caldecAnswers : Obligations.CaldecAnswers := by
  refine ⟨fun flag magnitude hmagnitude => ?packet, fun flag magnitude s => ?answer⟩
  case packet =>
    rw [Nat.add_assoc]
    exact decodeInvertsEncode (.caldec flag magnitude) (decide_eq_true hmagnitude)
  case answer =>
    rw [exec, execCaldec_eq, answerPure_ite, wordOfInt_eq_ofInt]
    rfl

end Sys2Proof.Machine
end

section
/-! PROOF. The statements of the init-mode controller (spec/42_init_mode.md): the states of the write scope, and the two
runs of a SETTIME through it, with its flag set and with its flag never set. -/

namespace Sys2Proof.Machine

/-! ### The states of the write scope (42_init_mode.md R152 to R157, 43_time_transactions.md R183, R184) -/

section
variable {s : State}

theorem advance_wsPoll_enters {body : TState} (hts : s.ts = .wsPoll) (ha : s.counter.initActive = true)
    (hbody : scopeBody s.opl = some body) :
    advance s = .next { logRead .status s with ims := .init, ts := body } := by
  rw [advance_wsPoll hts]
  refine (if_pos ha).trans ?_
  rw [hbody]

theorem advance_wsPoll_waits (hts : s.ts = .wsPoll) (ha : s.counter.initActive = false) (hn : 0 < s.tmo) :
    advance s = .next { logRead .status s with tmo := s.tmo - 1 } :=
  (advance_wsPoll hts).trans ((if_neg (Bool.eq_false_iff.mp ha)).trans (if_pos hn))

theorem advance_wsPoll_times_out (hts : s.ts = .wsPoll) (ha : s.counter.initActive = false) (hn : s.tmo = 0) :
    advance s = .next (failInScope .timeout (logRead .status s)) :=
  (advance_wsPoll hts).trans ((if_neg (Bool.eq_false_iff.mp ha)).trans (if_neg (by omega)))

/-- Settles O39: three writes, and the poll by the flag it reads first and then by the budget. -/
theorem scopeStates : Obligations.ScopeStates := by
  intro s
  refine ⟨?off, ?request, ?leave, ?settime, ?config, ?wait, ?timeout⟩
  case off => exact advance_wsWpoff
  case request => exact advance_wsReq
  case leave => exact advance_wsLeave
  case settime => exact fun hts ha ho => advance_wsPoll_enters hts ha (congrArg scopeBody ho)
  case config => exact fun hts ha ho => advance_wsPoll_enters hts ha (congrArg scopeBody ho)
  case wait => exact advance_wsPoll_waits
  case timeout => exact advance_wsPoll_times_out

/-- The finishing state whatever `OPL` and `ERR` are: `CONFIGURED` and the response are all that depends on them. -/
theorem wsWpon_eq (s : State) : wsWpon s = { s with
    counter := { s.counter with wpctl := 1#32 }, hist := s.hist ++ [.wr .wpctl 1#32], wu := false
    configured := s.configured || (decide (s.opl = .config) && decide (s.err = .ok))
    lock := false, ts := .idle, resp := s.resp.set s.owner (some (response s.opl.op.code s.err [])) } := rfl

/-- Settles O40: the header is that of the command's opcode, and a timeout adds its code to it. -/
theorem scopeFinishes : Obligations.ScopeFinishes := by
  intro s h hts hcommand
  have hheader : responseHeader s.opl.op.code .ok = h := by
    rcases hcommand with ⟨ho, rfl⟩ | ⟨ho, rfl⟩ | ⟨ho, rfl⟩ <;> rw [ho] <;> rfl
  rw [advance_wsWpon hts, wsWpon_eq]
  refine ⟨fun herr => ?ok, fun herr => ?timeout⟩
  case ok =>
    have hconf : (s.configured || (decide (s.opl = .config) && decide (s.err = .ok))) =
        if s.opl = .config then true else s.configured := by
      by_cases hc : s.opl = .config <;> simp [hc, herr]
    rw [hconf, herr, response_ok, hheader]
  case timeout =>
    have hconf : (s.configured || (decide (s.opl = .config) && decide (s.err = .ok))) = s.configured := by
      simp [herr]
    rw [hconf, herr, response_error _ .timeout _ (by decide), responseHeader_eq_add, hheader]
    rfl

theorem advance_stWdate_writes (hts : s.ts = .stWdate) (hw : s.counter.wpen = false)
    (ha : s.counter.initActive = true) : advance s = .next { s with
      counter := { s.counter with date := s.argDate }, hist := s.hist ++ [.wr .date s.argDate]
      ts := .stWtime } := by
  have hacc : s.counter.accepts .date = true := by simp [Counter.accepts, hw, ha]
  rw [advance_stWdate hts, stWdate, cwrite, s.counter.write_of_accepts .date s.argDate hacc, Counter.put]

theorem advance_stWtime_writes (hts : s.ts = .stWtime) (hw : s.counter.wpen = false)
    (ha : s.counter.initActive = true) : advance s = .next { s with
      counter := { s.counter with time := s.argTime }, hist := s.hist ++ [.wr .time s.argTime]
      ims := .leavingInit, ts := .wsLeave } := by
  have hacc : s.counter.accepts .time = true := by simp [Counter.accepts, hw, ha]
  rw [advance_stWtime hts, stWtime, cwrite, s.counter.write_of_accepts .time s.argTime hacc, Counter.put]

/-! ### The parts of a SETTIME's run (42_init_mode.md R152 to R158, 43_time_transactions.md R181 to R185) -/

variable {rest : List Event}

/-- A run whose schedule begins with the engine is its step and a run from there. -/
theorem runs_engine_then {t u : State} {n : Nat} (hin : s.inputs = .advance :: rest)
    (h : advance { s with inputs := rest } = .next t) (hn : runs n t = .next u) : runs (n + 1) s = .next u :=
  (runs_engine n hin h).trans hn

theorem runs_append {t u : State} {m n : Nat} (hm : runs m s = .next t) (hn : runs n t = .next u) :
    runs (m + n) s = .next u := (runs_add m n hm).trans hn

/-- Into the scope: protection off, the request made, the budget full. -/
theorem runs_opens_scope (hin : s.inputs = List.replicate 2 .advance ++ rest) (hts : s.ts = .wsWpoff) :
    runs 2 s = .next { s with
      inputs := rest, counter := { s.counter with wpctl := 0#32, initctl := 1#32 }
      hist := s.hist ++ [.wr .wpctl 0#32, .wr .initctl 1#32]
      wu := true, ims := .enteringInit, tmo := s.cfg.initPollBudget, ts := .wsPoll } := by
  rw [runs_engine_then hin (advance_wsWpoff hts)
    (runs_engine_then (rest := rest) rfl (advance_wsReq rfl) (runs_zero _))]
  simp [wsWpoff, wsReq, cwrite]

/-- The polls under a flag that stays 0: one for each unit of the budget, and the last one, which gives up. -/
theorem runs_polls_until_timeout {n : Nat} (hin : s.inputs = List.replicate (n + 1) .advance ++ rest)
    (hts : s.ts = .wsPoll) (ha : s.counter.initActive = false) (hn : s.tmo = n) :
    runs (n + 1) s = .next { s with
      inputs := rest, hist := s.hist ++ List.replicate (n + 1) (.rd .status s.counter.status)
      tmo := 0, err := .timeout, ims := .leavingInit, ts := .wsLeave } := by
  induction n generalizing s with
  | zero =>
    rw [runs_engine_then hin (advance_wsPoll_times_out hts ha hn) (runs_zero _)]
    simp [failInScope, logRead, Counter.read, hn]
  | succ n ih =>
    have hpos : 0 < s.tmo := hn ▸ n.succ_pos
    have hleft : s.tmo - 1 = n := by omega
    rw [runs_engine_then hin (advance_wsPoll_waits hts ha hpos) (ih rfl hts ha hleft)]
    simp [logRead, Counter.read, ← List.replicate_succ]

/-- The poll that reads 1 and the body of SETTIME, protection off. -/
theorem runs_writes_time (hin : s.inputs = List.replicate 3 .advance ++ rest) (hts : s.ts = .wsPoll)
    (ho : s.opl = .settime) (hw : s.counter.wpen = false) (ha : s.counter.initActive = true) :
    runs 3 s = .next { s with
      inputs := rest, counter := { s.counter with date := s.argDate, time := s.argTime }
      hist := s.hist ++ [.rd .status s.counter.status, .wr .date s.argDate, .wr .time s.argTime]
      ims := .leavingInit, ts := .wsLeave } := by
  rw [runs_engine_then hin (advance_wsPoll_enters hts ha (congrArg scopeBody ho))
    (runs_engine_then rfl (advance_stWdate_writes rfl hw ha)
      (runs_engine_then (rest := rest) rfl (advance_stWtime_writes rfl hw ha) (runs_zero _)))]
  simp [logRead, Counter.read]

/-- Out of the scope: the request withdrawn, protection back on, and the answer that `ERR` says. -/
theorem runs_closes_scope (hin : s.inputs = List.replicate 2 .advance ++ rest) (hts : s.ts = .wsLeave)
    (ho : s.opl = .settime) :
    runs 2 s = .next { s with
      inputs := rest, counter := { s.counter with wpctl := 1#32, initctl := 0#32 }
      hist := s.hist ++ [.wr .initctl 0#32, .wr .wpctl 1#32]
      ims := .normal, wu := false, lock := false, ts := .idle
      resp := s.resp.set s.owner (some (response Op.settime.code s.err [])) } := by
  rw [runs_engine_then hin (advance_wsLeave hts)
    (runs_engine_then (rest := rest) rfl (advance_wsWpon rfl) (runs_zero _)), wsWpon_eq]
  simp [wsLeave, cwrite, ho, Transaction.op]

end

/-! ### The whole runs (42_init_mode.md R155, R158; 43_time_transactions.md R181, R185) -/

/-- Settles O57: into the scope, all the polls of the budget, and out with `ERR` = `Timeout`. -/
theorem settimeTimesOutWithinBudget : Obligations.SettimeTimesOutWithinBudget := by
  intro s rest hin hts ho ha
  rw [show s.cfg.initPollBudget + 5 = 2 + (s.cfg.initPollBudget + 1 + 2) by omega] at hin ⊢
  rw [List.replicate_add, List.replicate_add, List.append_assoc, List.append_assoc] at hin
  rw [runs_append (runs_opens_scope hin hts)
    (runs_append (runs_polls_until_timeout rfl rfl ha rfl) (runs_closes_scope rfl rfl ho))]
  simp only [List.append_assoc]
  rfl

/-- Settles O58: into the scope, the two writes of the body, and out with `ERR` still `OK`. -/
theorem settimeWritesTheTime : Obligations.SettimeWritesTheTime := by
  intro s rest hin hts ho herr ha
  have hunlocked : bit 0x00000000#32 0 = false := by decide
  rw [runs_append (m := 2) (runs_opens_scope hin hts)
    (runs_append (m := 3) (runs_writes_time rfl rfl ho hunlocked ha) (runs_closes_scope rfl rfl ho))]
  simp only [herr, List.append_assoc]
  rfl

end Sys2Proof.Machine
end

section
/-! PROOF. The statements of the time transactions (spec/43_time_transactions.md): the states of GETTIME and the bodies
of the write scope, GETTIME's run with the counter still, and the torn-free property. -/

namespace Sys2Proof.Machine

section
variable {s : State}

/-! ### The ends of a GETTIME (43_time_transactions.md R175 to R179; 60_exceptions.md R247) -/

theorem finish_ok_gettime (ho : s.opl = .gettime) (payload : List Word) : finish .ok payload s = { s with
    lock := false, ts := .idle, resp := s.resp.set s.owner (some (0x10000000#32 :: payload)) } := by
  simp only [finish, respond, setMailbox, ho]
  rfl

theorem failUnscoped_internalConsistency_gettime (ho : s.opl = .gettime) :
    failUnscoped .internalConsistency s = { s with
      lock := false, ts := .idle, resp := s.resp.set s.owner (some [0x10000005#32]) } := by
  simp only [failUnscoped, finish, respond, setMailbox, ho]
  rfl

theorem advance_gtT2_agrees (hts : s.ts = .gtT2) (h : s.counter.time = s.st) :
    advance s = .next { logRead .time s with ts := .gtD2 } := by
  rw [advance_gtT2 hts, gtT2_agrees s h]

theorem advance_gtT2_differs (hts : s.ts = .gtT2) (h : s.counter.time ≠ s.st) :
    advance s = .next (mismatch .gtT1 (logRead .time s)) := by
  rw [advance_gtT2 hts, gtT2_differs s h]

theorem advance_gtD2_agrees (hts : s.ts = .gtD2) (h : s.counter.date = s.sd) :
    advance s = .next (finishGettime (logRead .date s)) := by
  rw [advance_gtD2 hts, gtD2_agrees s h]

theorem advance_gtD2_differs (hts : s.ts = .gtD2) (h : s.counter.date ≠ s.sd) :
    advance s = .next (mismatch .gtD1 (logRead .date s)) := by
  rw [advance_gtD2 hts, gtD2_differs s h]

/-- The successful end with the nanoseconds of R176. -/
theorem advance_gtD2_finishes (hts : s.ts = .gtD2) (ho : s.opl = .gettime) (hd : s.counter.date = s.sd)
    (hss : s.ss.toNat ≤ s.cfg.predivS) :
    advance s = .next { s with
      hist := s.hist ++ [.rd .date s.counter.date], lock := false, ts := .idle
      resp := s.resp.set s.owner (some (0x10000000#32 ::
        timePayload s.sd s.st (wordOfInt (nanoseconds s.cfg.predivS s.ss.toNat)))) } := by
  rw [advance_gtD2_agrees hts hd, finishGettime_of_le (logRead .date s) hss,
    finish_ok_gettime (s := logRead .date s) ho]
  rfl

/-- The successful end with free nanoseconds, R177. -/
theorem advance_gtD2_finishes_above (hts : s.ts = .gtD2) (ho : s.opl = .gettime) (hd : s.counter.date = s.sd)
    (hss : s.cfg.predivS < s.ss.toNat) :
    advance s = .next { s with
      hist := s.hist ++ [.rd .date s.counter.date], lock := false, ts := .idle
      resp := s.resp.set s.owner (some (0x10000000#32 ::
        timePayload s.sd s.st (Config.freeNsec s.freeCtr)))
      freeCtr := s.freeCtr + 1 } := by
  rw [advance_gtD2_agrees hts hd, finishGettime_of_gt (logRead .date s) hss,
    finish_ok_gettime (s := logRead .date s) ho]
  rfl

end

/-- Settles O35: three reads, an agreement, and a mismatch at each level with no cap. -/
theorem gettimeReadsComparesRetries : Obligations.GettimeReadsComparesRetries := by
  intro s
  refine ⟨?date, ?time, ?subsec, ?agrees, ?timeDiffers, ?dateDiffers⟩
  case date => exact advance_gtD1
  case time => exact advance_gtT1
  case subsec => exact advance_gtSs
  case agrees => exact advance_gtT2_agrees
  case timeDiffers =>
    intro hts hne hcap
    rw [advance_gtT2 hts, gtT2_retries s hcap hne]
    rfl
  case dateDiffers =>
    intro hts hne hcap
    rw [advance_gtD2 hts, gtD2_retries s hcap hne]
    rfl

/-- Settles O36: the successful end, its nanoseconds as the word `BitVec.ofInt` writes. -/
theorem gettimeFinishes : Obligations.GettimeFinishes := by
  intro s hts ho hd hss
  rw [advance_gtD2_finishes hts ho hd hss, wordOfInt_eq_ofInt]
  rfl

/-- Settles O37: `nsec` is the next free value. -/
theorem subsecondAbovePrescaler : Obligations.SubsecondAbovePrescaler := by
  intro s hts ho hd hss
  exact ⟨Config.freeNsec s.freeCtr, advance_gtD2_finishes_above hts ho hd hss⟩

/-- Settles O38: both states make the same `mismatch` after their read; then by the cap and the count. -/
theorem retryCapEndsGettime : Obligations.RetryCapEndsGettime := by
  intro s v i retry ho hcase
  obtain ⟨hadv, rfl⟩ : advance s = .next (mismatch retry (logRead i s)) ∧ v = s.counter.read i := by
    rcases hcase with ⟨hts, rfl, rfl, hne, rfl⟩ | ⟨hts, rfl, rfl, hne, rfl⟩
    · exact ⟨advance_gtT2_differs hts hne, rfl⟩
    · exact ⟨advance_gtD2_differs hts hne, rfl⟩
  rw [hadv]
  cases hcap : s.cfg.readRetryCap with
  | none => exact congrArg _ (mismatch_none retry (logRead i s) hcap)
  | some cap =>
    by_cases hlt : cap < s.rty + 1
    · refine congrArg _ (Eq.trans ?_ (if_pos hlt).symm)
      rw [mismatch_ends retry (logRead i s) cap hcap hlt]
      exact failUnscoped_internalConsistency_gettime (s := { logRead i s with rty := s.rty + 1 }) ho
    · refine congrArg _ (Eq.trans ?_ (if_neg hlt).symm)
      exact mismatch_retries retry (logRead i s) cap hcap (Nat.not_lt.mp hlt)

/-- Settles O41: with protection off and init mode active the counter stores each of the four words. -/
theorem bodyStatesWrite : Obligations.BodyStatesWrite := by
  intro s hw ha
  refine ⟨?date, ?time, ?ctrl, ?presc⟩
  case date => exact fun hts => advance_stWdate_writes hts hw ha
  case time => exact fun hts => advance_stWtime_writes hts hw ha
  case ctrl =>
    intro hts
    have hacc : s.counter.accepts .ctrl = true := by simp [Counter.accepts, hw, ha]
    rw [advance_cfWctrl hts, cfWctrl, cwrite, s.counter.write_of_accepts .ctrl _ hacc]
    rfl
  case presc =>
    intro hts
    have hacc : s.counter.accepts .presc = true := by simp [Counter.accepts, hw, ha]
    rw [advance_cfWpresc hts, cfWpresc, cwrite, s.counter.write_of_accepts .presc _ hacc]
    rfl

/-! ### GETTIME with the counter still (43_time_transactions.md R175, R176, R180) -/

/-- `SS` keeps the whole of `SUBSEC[15:0]`. -/
theorem toNat_ofNat_bits_subsec (w : Word) : (BitVec.ofNat 16 (bits w 15 0)).toNat = bits w 15 0 := by
  rw [BitVec.toNat_ofNat, Nat.mod_eq_of_lt (bits_lt w 15 0)]

/-- Settles O56: one engine step for each of the five states, both comparisons with the value read before. -/
theorem quietGettimeTakesFiveAccesses : Obligations.QuietGettimeTakesFiveAccesses := by
  intro s rest hin hts ho hss
  rw [← toNat_ofNat_bits_subsec] at hss
  rw [runs_engine_then hin (advance_gtD1 hts)
    (runs_engine_then rfl (advance_gtT1 rfl)
    (runs_engine_then rfl (advance_gtSs rfl)
    (runs_engine_then rfl (advance_gtT2_agrees rfl rfl)
    (runs_engine_then (rest := rest) rfl (advance_gtD2_finishes rfl ho rfl hss) (runs_zero _)))))]
  simp [-BitVec.toNat_ofNat, gtD1, gtT1, gtSs, logRead, Counter.read, timePayload, auxWord, toNat_ofNat_bits_subsec]

/-! ### A GETTIME in flight (43_time_transactions.md R171 to R175) -/

/-- What holds of every state from the acceptance of a GETTIME to the step that ends it. -/
structure GettimeInFlight (s : State) : Prop where
  scope : ScopeInv s
  mailbox : MailboxInv s
  opl : s.opl = .gettime
  busy : s.ts ≠ .idle

/-- What an engine step of a GETTIME does from `s`: the state of `TS` it goes to and the snapshot `SD`, `ST`, `SS` it
leaves there. -/
inductive GettimeGoes (s : State) : TState → Word → Word → BitVec 16 → Prop
  | readsDate (ts : s.ts = .gtD1) : GettimeGoes s .gtT1 s.counter.date s.st s.ss
  | readsTime (ts : s.ts = .gtT1) : GettimeGoes s .gtSs s.sd s.counter.time s.ss
  | readsSubsec (ts : s.ts = .gtSs) :
      GettimeGoes s .gtT2 s.sd s.st (BitVec.ofNat 16 (bits s.counter.subsec 15 0))
  | timeAgrees (ts : s.ts = .gtT2) (agrees : s.counter.time = s.st) : GettimeGoes s .gtD2 s.sd s.st s.ss
  | timeDiffers (ts : s.ts = .gtT2) : GettimeGoes s .gtT1 s.sd s.st s.ss
  | dateDiffers (ts : s.ts = .gtD2) : GettimeGoes s .gtD1 s.sd s.st s.ss
  | ends (ts : s.ts = .gtT2 ∨ s.ts = .gtD2) : GettimeGoes s .idle s.sd s.st s.ss

/-- The same, between two states of a run. -/
def GettimeMove (s t : State) : Prop := GettimeGoes s t.ts t.sd t.st t.ss

/-- What a step of another agent leaves: the parameters, the transaction in flight, its state and its snapshot. -/
def transactionView (s : State) : Config × Nat × Transaction × TState × Word × Word × BitVec 16 :=
  (s.cfg, s.owner, s.opl, s.ts, s.sd, s.st, s.ss)

theorem transactionView_eq_iff (s t : State) : transactionView t = transactionView s ↔
    t.cfg = s.cfg ∧ t.owner = s.owner ∧ t.opl = s.opl ∧ t.ts = s.ts ∧ t.sd = s.sd ∧ t.st = s.st ∧ t.ss = s.ss := by
  simp only [transactionView, Prod.mk.injEq]

/-- One step of a run of GETTIME: the engine's, whatever it has taken from the schedule, or another agent's. -/
inductive GettimeStep (s t : State) : Prop
  | engine (moves : engineMoves s = true) (i : List Event) (k : Nat)
      (next : advance { s with inputs := i, eventCtr := k } = .next t)
  | other (waits : engineMoves s = false) (view : transactionView t = transactionView s)

theorem engineMoves_of_counter {s : State} {m : CounterMove} (h : nextEvent s = .counter m) :
    engineMoves s = false := by
  rw [engineMoves, h]
  rfl

theorem engineMoves_of_clkReady {s : State} {b : Bool} (h : nextEvent s = .clkReady b) : engineMoves s = false := by
  rw [engineMoves, h]
  rfl

theorem engineMoves_of_mayIssue {s : State} {r : Nat} {p : Packet} (h : MayIssue s r p) :
    engineMoves s = false := by
  simpa [engineMoves, ownerWaits, h.next, h.port] using h.free

theorem transactionView_useEvent (s : State) : transactionView (useEvent s) = transactionView s := by
  simp [transactionView]

section
variable {s t : State}

theorem GettimeInFlight.lock (h : GettimeInFlight s) : s.lock = true := by
  simp [h.scope.seq.lock, h.busy]

theorem GettimeInFlight.owner_lt (h : GettimeInFlight s) : s.owner < s.resp.length :=
  h.mailbox.ports ▸ h.mailbox.owner h.lock

theorem GettimeInFlight.ts_cases (h : GettimeInFlight s) :
    s.ts = .gtD1 ∨ s.ts = .gtT1 ∨ s.ts = .gtSs ∨ s.ts = .gtT2 ∨ s.ts = .gtD2 := by
  have hof : s.ts.of .gettime = true := h.opl ▸ h.scope.seq.opl
  have hbusy := h.busy
  generalize s.ts = x at hof hbusy
  cases x with
  | idle => exact absurd rfl hbusy
  | gtD1 | gtT1 | gtSs | gtT2 | gtD2 => decide
  | _ => cases hof

/-- In the first state of GETTIME the scope invariant asks nothing of the counter. -/
theorem SequencingInv.scopeInv_of_gtD1 (h : SequencingInv s) (hts : s.ts = .gtD1) : ScopeInv s where
  seq := h
  unprotected hw := by rw [h.wu, hts] at hw; cases hw
  requested hr := by rw [hts] at hr; cases hr
  active hb := by rw [hts] at hb; cases hb

/-- While the lock is held, another requester's issue is answered and begins nothing. -/
theorem transactionView_issue {r : Nat} {p : Packet} (hl : s.lock = true) (h : issue r p s = .next t) :
    transactionView t = transactionView s := by
  rcases issue_cases h with ⟨w, ws, rfl⟩ | ⟨tr, d, m, c, n, k, hacc, -⟩
  · rfl
  · obtain ⟨hfree, -⟩ := (acceptanceError_eq_none tr _).mp hacc
    exact absurd (hl.symm.trans hfree) (by decide)

theorem GettimeInFlight.step (hs : GettimeInFlight s) (h : step s = .next t) : GettimeStep s t := by
  rcases step_cases h with ⟨u, hu, hmoves, hadv⟩ | ⟨m, he, rfl⟩ | ⟨b, he, rfl⟩ | ⟨r, p, hmay, hissue⟩
  · obtain ⟨i, k, hk⟩ := useEvent_eq s
    rcases hu with rfl | rfl
    · exact .engine hmoves _ _ hadv
    · exact .engine hmoves i k (hk ▸ hadv)
  · exact .other (engineMoves_of_counter he) (transactionView_useEvent s)
  · exact .other (engineMoves_of_clkReady he) (transactionView_useEvent s)
  · have hlock : (useEvent s).lock = true := by rw [useEvent_lock, hs.lock]
    exact .other (engineMoves_of_mayIssue hmay)
      ((transactionView_issue hlock hissue).trans (transactionView_useEvent s))

/-- Every step of a run keeps the parameters, the owner and the transaction. -/
theorem GettimeStep.keeps (h : GettimeStep s t) : t.cfg = s.cfg ∧ t.owner = s.owner ∧ t.opl = s.opl := by
  cases h with
  | engine _ i k next =>
    obtain ⟨hcfg, -, -, -, -, -, -, -, -, howner, hopl⟩ :=
      (engineUntouched_eq_iff _ _).mp (advance_frame next).untouched
    exact ⟨hcfg, howner, hopl⟩
  | other _ view =>
    obtain ⟨hcfg, howner, hopl, -⟩ := (transactionView_eq_iff s t).mp view
    exact ⟨hcfg, howner, hopl⟩

theorem GettimeMove.of_mismatch {u : State} {retry : TState} (hretry : GettimeGoes s retry u.sd u.st u.ss)
    (hidle : GettimeGoes s .idle u.sd u.st u.ss) : GettimeMove s (mismatch retry u) := by
  rcases mismatch_cases retry u with ⟨n, hm⟩ | ⟨n, hm⟩ <;> rw [hm]
  · exact hretry
  · exact hidle

theorem GettimeMove.of_finishGettime {u : State} (hidle : GettimeGoes s .idle u.sd u.st u.ss) :
    GettimeMove s (finishGettime u) := by
  obtain ⟨payload, n, hf⟩ := finishGettime_eq_finish u
  rw [hf]
  exact hidle

/-- The engine's step, whatever has been taken from the schedule before it. -/
theorem GettimeInFlight.move {i : List Event} {k : Nat} (hs : GettimeInFlight s)
    (h : advance { s with inputs := i, eventCtr := k } = .next t) : GettimeMove s t := by
  rcases hs.ts_cases with hts | hts | hts | hts | hts
  · exact of_advance (P := GettimeMove s) h (advance_gtD1 hts) (.readsDate hts)
  · exact of_advance (P := GettimeMove s) h (advance_gtT1 hts) (.readsTime hts)
  · exact of_advance (P := GettimeMove s) h (advance_gtSs hts) (.readsSubsec hts)
  · by_cases hst : s.counter.time = s.st
    · exact of_advance (P := GettimeMove s) h (advance_gtT2_agrees hts hst) (.timeAgrees hts hst)
    · exact of_advance h (advance_gtT2_differs hts hst) (.of_mismatch (.timeDiffers hts) (.ends (.inl hts)))
  · by_cases hsd : s.counter.date = s.sd
    · exact of_advance h (advance_gtD2_agrees hts hsd) (.of_finishGettime (.ends (.inr hts)))
    · exact of_advance h (advance_gtD2_differs hts hsd) (.of_mismatch (.dateDiffers hts) (.ends (.inr hts)))

/-- A mismatch that ends a GETTIME does not answer `OK`. -/
theorem mismatch_answer {retry : TState} {payload : List Word} (ho : s.opl = .gettime)
    (hown : s.owner < s.resp.length) (hretry : retry ≠ .idle) (ht : (mismatch retry s).ts = .idle) :
    (mismatch retry s).mailbox s.owner ≠ some (0x10000000#32 :: payload) := by
  rcases mismatch_cases retry s with ⟨n, hm⟩ | ⟨n, hm⟩ <;> rw [hm] at ht ⊢
  · exact absurd ht hretry
  · rw [failUnscoped_internalConsistency_gettime (s := { s with rty := n }) ho]
    simp [State.mailbox, hown]

/-- A GETTIME that ends `OK` ends in `GT_D2`, its date unchanged, and answers its snapshot (R175 to R177). -/
theorem gettime_ends_ok {payload : List Word} (hts : s.ts = .gtT2 ∨ s.ts = .gtD2) (ho : s.opl = .gettime)
    (hown : s.owner < s.resp.length) (h : advance s = .next t) (ht : t.ts = .idle)
    (hresp : t.mailbox s.owner = some (0x10000000#32 :: payload)) :
    s.ts = .gtD2 ∧ s.counter.date = s.sd ∧ ∃ nsec, payload = timePayload s.sd s.st nsec ∧
      (s.ss.toNat ≤ s.cfg.predivS → nsec = wordOfInt (nanoseconds s.cfg.predivS s.ss.toNat)) := by
  rcases hts with hts | hts
  · by_cases hst : s.counter.time = s.st
    · cases (advance_gtT2_agrees hts hst).symm.trans h
      cases ht
    · cases (advance_gtT2_differs hts hst).symm.trans h
      exact absurd hresp (mismatch_answer (s := logRead .time s) ho hown (by decide) ht)
  · by_cases hsd : s.counter.date = s.sd
    · refine ⟨hts, hsd, ?_⟩
      rcases Nat.lt_or_ge s.cfg.predivS s.ss.toNat with hgt | hle
      · cases (advance_gtD2_finishes_above hts ho hsd hgt).symm.trans h
        refine ⟨Config.freeNsec s.freeCtr, ?_, fun hle => absurd hle (by omega)⟩
        simpa [State.mailbox, hown] using hresp.symm
      · cases (advance_gtD2_finishes hts ho hsd hle).symm.trans h
        refine ⟨_, ?_, fun _ => rfl⟩
        simpa [State.mailbox, hown] using hresp.symm
    · cases (advance_gtD2_differs hts hsd).symm.trans h
      exact absurd hresp (mismatch_answer (s := logRead .date s) ho hown (by decide) ht)

end

/-! ### The steps that lead to each state of GETTIME, and to its end -/

section
variable {s : State} {x : TState} {sd st : Word} {ss : BitVec 16}

theorem GettimeGoes.to_gtSs (h : GettimeGoes s x sd st ss) (hx : x = .gtSs) :
    s.ts = .gtT1 ∧ sd = s.sd ∧ st = s.counter.time := by
  cases h with
  | readsTime ts => exact ⟨ts, rfl, rfl⟩
  | _ => cases hx

theorem GettimeGoes.to_gtT2 (h : GettimeGoes s x sd st ss) (hx : x = .gtT2) :
    s.ts = .gtSs ∧ sd = s.sd ∧ st = s.st ∧ ss = BitVec.ofNat 16 (bits s.counter.subsec 15 0) := by
  cases h with
  | readsSubsec ts => exact ⟨ts, rfl, rfl, rfl⟩
  | _ => cases hx

theorem GettimeGoes.to_gtD2 (h : GettimeGoes s x sd st ss) (hx : x = .gtD2) :
    s.ts = .gtT2 ∧ s.counter.time = s.st ∧ sd = s.sd ∧ st = s.st ∧ ss = s.ss := by
  cases h with
  | timeAgrees ts agrees => exact ⟨ts, agrees, rfl, rfl, rfl⟩
  | _ => cases hx

theorem GettimeGoes.to_idle (h : GettimeGoes s x sd st ss) (hx : x = .idle) :
    (s.ts = .gtT2 ∨ s.ts = .gtD2) ∧ sd = s.sd ∧ st = s.st ∧ ss = s.ss := by
  cases h with
  | ends ts => exact ⟨ts, rfl, rfl, rfl⟩
  | _ => cases hx

/-- Only the read of `GT_D1` changes `SD`. -/
theorem GettimeGoes.sd_eq (h : GettimeGoes s x sd st ss) (hs : s.ts ≠ .gtD1) : sd = s.sd := by
  cases h with
  | readsDate ts => exact absurd ts hs
  | _ => rfl

theorem GettimeGoes.sd_eq_date (h : GettimeGoes s x sd st ss) (hs : s.ts = .gtD1) : sd = s.counter.date := by
  cases h with
  | readsDate => rfl
  | readsTime ts | readsSubsec ts | timeAgrees ts | timeDiffers ts | dateDiffers ts => cases hs.symm.trans ts
  | ends ts => rcases ts with ts | ts <;> cases hs.symm.trans ts

end

/-- The end of a GETTIME in flight, whatever the engine has taken from the schedule before it. -/
theorem GettimeInFlight.ends_ok {s t : State} {i : List Event} {k : Nat} {payload : List Word}
    (hs : GettimeInFlight s) (h : advance { s with inputs := i, eventCtr := k } = .next t) (ht : t.ts = .idle)
    (hresp : t.mailbox s.owner = some (0x10000000#32 :: payload)) :
    s.ts = .gtD2 ∧ s.counter.date = s.sd ∧ ∃ nsec, payload = timePayload s.sd s.st nsec ∧
      (s.ss.toNat ≤ s.cfg.predivS → nsec = wordOfInt (nanoseconds s.cfg.predivS s.ss.toNat)) := by
  obtain ⟨hts, -⟩ := (hs.move h).to_idle ht
  exact gettime_ends_ok (s := { s with inputs := i, eventCtr := k }) hts hs.opl hs.owner_lt h ht hresp

/-! ### The accesses of a run of GETTIME (43_time_transactions.md R178) -/

/-- A run of one GETTIME, from its first state up to the step that may end it. -/
structure GettimeRun (tr : Nat → State) (n : Nat) : Prop where
  trace : IsTrace tr n
  start : (tr 0).ts = .gtD1
  inFlight : ∀ k, k < n → GettimeInFlight (tr k)

/-- The engine's last step before `tr k` was at `tr a`. -/
structure LastMove (tr : Nat → State) (a k : Nat) : Prop where
  lt : a < k
  moves : engineMoves (tr a) = true
  move : GettimeMove (tr a) (tr k)
  last : ∀ j, j < k → engineMoves (tr j) = true → j ≤ a

/-- The last visit of `GT_D1` before `tr k` was at `tr a`, and `SD` is still what it read. -/
structure LastDateRead (tr : Nat → State) (a k : Nat) : Prop where
  lt : a < k
  moves : engineMoves (tr a) = true
  ts : (tr a).ts = .gtD1
  sd : (tr k).sd = (tr a).counter.date
  last : ∀ j, j < k → engineMoves (tr j) = true → (tr j).ts = .gtD1 → j ≤ a

section
variable {tr : Nat → State} {n k : Nat}

theorem GettimeRun.step (h : GettimeRun tr n) (hk : k < n) : GettimeStep (tr k) (tr (k + 1)) :=
  (h.inFlight k hk).step (h.trace k hk)

/-- A step of another agent leaves the engine's last step the last. -/
theorem LastMove.succ {a : Nat} (h : LastMove tr a k) (hwaits : engineMoves (tr k) = false)
    (hview : transactionView (tr (k + 1)) = transactionView (tr k)) : LastMove tr a (k + 1) where
  lt := h.lt.trans k.lt_succ_self
  moves := h.moves
  move := by
    obtain ⟨-, -, -, hts, hsd, hst, hss⟩ := (transactionView_eq_iff _ _).mp hview
    have hmove := h.move
    rwa [GettimeMove, hts, hsd, hst, hss]
  last j hj hm := by
    have hne : j ≠ k := fun he => by simp [he, hwaits] at hm
    exact h.last j (by omega) hm

/-- Past `GT_D1` the engine has moved. -/
theorem GettimeRun.lastMove (h : GettimeRun tr n) (hk : k ≤ n) (hts : (tr k).ts ≠ .gtD1) :
    ∃ a, LastMove tr a k := by
  induction k with
  | zero => exact absurd h.start hts
  | succ k ih =>
    cases h.step hk with
    | engine moves i e next =>
      exact ⟨k, k.lt_succ_self, moves, (h.inFlight k hk).move next, fun j hj _ => Nat.le_of_lt_succ hj⟩
    | other waits view =>
      obtain ⟨-, -, -, hts', -⟩ := (transactionView_eq_iff _ _).mp view
      obtain ⟨a, ha⟩ := ih (Nat.le_of_lt hk) (hts' ▸ hts)
      exact ⟨a, ha.succ waits view⟩

/-- A step that is no visit of `GT_D1` leaves the last one the last. -/
theorem LastDateRead.succ {a : Nat} (h : LastDateRead tr a k) (hsd : (tr (k + 1)).sd = (tr k).sd)
    (hno : engineMoves (tr k) = true → (tr k).ts ≠ .gtD1) : LastDateRead tr a (k + 1) where
  lt := h.lt.trans k.lt_succ_self
  moves := h.moves
  ts := h.ts
  sd := hsd.trans h.sd
  last j hj hm hj1 := by
    have hne : j ≠ k := fun he => hno (he ▸ hm) (he ▸ hj1)
    exact h.last j (by omega) hm hj1

/-- Past `GT_D1` it has been visited. -/
theorem GettimeRun.lastDateRead (h : GettimeRun tr n) (hk : k ≤ n) (hts : (tr k).ts ≠ .gtD1) :
    ∃ a, LastDateRead tr a k := by
  induction k with
  | zero => exact absurd h.start hts
  | succ k ih =>
    cases h.step hk with
    | engine moves i e next =>
      have hmove : GettimeMove (tr k) (tr (k + 1)) := (h.inFlight k hk).move next
      by_cases hd1 : (tr k).ts = .gtD1
      · exact ⟨k, k.lt_succ_self, moves, hd1, hmove.sd_eq_date hd1, fun j hj _ _ => Nat.le_of_lt_succ hj⟩
      · obtain ⟨a, ha⟩ := ih (Nat.le_of_lt hk) hd1
        exact ⟨a, ha.succ (hmove.sd_eq hd1) fun _ => hd1⟩
    | other waits view =>
      obtain ⟨-, -, -, hts', hsd, -, -⟩ := (transactionView_eq_iff _ _).mp view
      obtain ⟨a, ha⟩ := ih (Nat.le_of_lt hk) (hts' ▸ hts)
      exact ⟨a, ha.succ hsd fun hm => absurd (waits.symm.trans hm) (by decide)⟩

/-- The invariants of a GETTIME in flight hold along a trace that is busy. -/
theorem gettimeRun_of_trace (hseq : SequencingInv (tr 0)) (hbox : MailboxInv (tr 0)) (hstart : (tr 0).ts = .gtD1)
    (htr : IsTrace tr n) (hbusy : ∀ k, k < n → (tr k).ts ≠ .idle) : GettimeRun tr n := by
  refine ⟨htr, hstart, fun k => ?_⟩
  induction k with
  | zero =>
    intro hk
    have hopl : (tr 0).opl = .gettime := by simpa [hstart, TState.of] using hseq.opl
    exact ⟨hseq.scopeInv_of_gtD1 hstart, hbox, hopl, hbusy 0 hk⟩
  | succ k ih =>
    intro hk
    have hs := ih (by omega)
    have hstep := htr k (by omega)
    obtain ⟨-, -, hopl⟩ := (hs.step hstep).keeps
    refine ⟨stepKeepsScopeInv _ _ hs.scope hstep, stepKeepsMailboxInv _ _ hs.mailbox hstep,
      hopl.trans hs.opl, hbusy _ hk⟩

theorem GettimeRun.owner_eq (h : GettimeRun tr n) (hk : k ≤ n) : (tr k).owner = (tr 0).owner := by
  induction k with
  | zero => rfl
  | succ k ih =>
    obtain ⟨-, howner, -⟩ := (h.step hk).keeps
    exact howner.trans (ih (by omega))

/-- The step that ends a run is the engine's. -/
theorem GettimeRun.last_step (h : GettimeRun tr (k + 1)) (hend : (tr (k + 1)).ts = .idle) :
    engineMoves (tr k) = true ∧
      ∃ i e, advance { tr k with inputs := i, eventCtr := e } = .next (tr (k + 1)) := by
  cases h.step k.lt_succ_self with
  | engine moves i e next => exact ⟨moves, i, e, next⟩
  | other _ view =>
    obtain ⟨-, -, -, hts, -⟩ := (transactionView_eq_iff _ _).mp view
    exact absurd (hts.symm.trans hend) (h.inFlight k k.lt_succ_self).busy

/-- The reads that lead to `tr m` in `GT_D2`, `DATE` at `a1`, `TIME` at `a2`, `SUBSEC` at `a3` and `TIME` again at `a4`:
each the last of its kind, and the snapshot at `tr m` is what they read. -/
structure FinalReads (tr : Nat → State) (a1 a2 a3 a4 m : Nat) : Prop where
  date : LastDateRead tr a1 a2
  time : LastMove tr a2 a3
  subsec : LastMove tr a3 a4
  check : LastMove tr a4 m
  ts : (tr a2).ts = .gtT1 ∧ (tr a3).ts = .gtSs ∧ (tr a4).ts = .gtT2
  sd : (tr m).sd = (tr a1).counter.date
  st : (tr m).st = (tr a2).counter.time
  ss : (tr m).ss = BitVec.ofNat 16 (bits (tr a3).counter.subsec 15 0)
  agrees : (tr a4).counter.time = (tr m).st

/-- `GT_D2` is reached only through `GT_T1`, `GT_SS` and `GT_T2`, each the engine's last step before the next. -/
theorem GettimeRun.finalReads (h : GettimeRun tr n) (hk : k < n) (hts : (tr k).ts = .gtD2) :
    ∃ a1 a2 a3 a4, FinalReads tr a1 a2 a3 a4 k := by
  obtain ⟨a4, check⟩ := h.lastMove hk.le (by simp [hts])
  obtain ⟨hts4, hagrees, hsd4, hst4, hss4⟩ := check.move.to_gtD2 hts
  obtain ⟨a3, subsec⟩ := h.lastMove (check.lt.le.trans hk.le) (by simp [hts4])
  obtain ⟨hts3, hsd3, hst3, hss3⟩ := subsec.move.to_gtT2 hts4
  obtain ⟨a2, time⟩ := h.lastMove ((subsec.lt.trans check.lt).le.trans hk.le) (by simp [hts3])
  obtain ⟨hts2, hsd2, hst2⟩ := time.move.to_gtSs hts3
  obtain ⟨a1, date⟩ :=
    h.lastDateRead ((time.lt.trans (subsec.lt.trans check.lt)).le.trans hk.le) (by simp [hts2])
  exact ⟨a1, a2, a3, a4, {
    date, time, subsec, check
    ts := ⟨hts2, hts3, hts4⟩
    sd := by rw [hsd4, hsd3, hsd2, date.sd]
    st := by rw [hst4, hst3, hst2]
    ss := hss4.trans hss3
    agrees := hagrees.trans hst4.symm }⟩

theorem readsNow_of_ts {s : State} {x : TState} {i : CReg} (hm : engineMoves s = true) (hts : s.ts = x)
    (hr : x.reads = some i) : ReadsNow i s := ⟨hm, hts ▸ hr⟩

end

section
variable {tr : Nat → State} {a1 a2 a3 a4 m n : Nat} (r : FinalReads tr a1 a2 a3 a4 m)
include r

theorem FinalReads.order : a1 < a2 ∧ a2 < a3 ∧ a3 < a4 ∧ a4 < m :=
  ⟨r.date.lt, r.time.lt, r.subsec.lt, r.check.lt⟩

theorem FinalReads.readsNow :
    ReadsNow .date (tr a1) ∧ ReadsNow .time (tr a2) ∧ ReadsNow .subsec (tr a3) ∧ ReadsNow .time (tr a4) := by
  obtain ⟨hts2, hts3, hts4⟩ := r.ts
  exact ⟨readsNow_of_ts r.date.moves r.date.ts rfl, readsNow_of_ts r.time.moves hts2 rfl,
    readsNow_of_ts r.subsec.moves hts3 rfl, readsNow_of_ts r.check.moves hts4 rfl⟩

/-- After the read of `TIME` the engine makes the last three accesses and no other step. -/
theorem FinalReads.last_three {k : Nat} (h2 : a2 < k) (hk : k < m + 1) (hm : engineMoves (tr k) = true) :
    k = a3 ∨ k = a4 ∨ k = m := by
  have h3 := fun hlt => r.time.last k hlt hm
  have h4 := fun hlt => r.subsec.last k hlt hm
  have h5 := fun hlt => r.check.last k hlt hm
  omega

/-- The read of `DATE` is the last visit of `GT_D1`. -/
theorem FinalReads.no_later_gtD1 (hd2 : (tr m).ts = .gtD2) {k : Nat} (h1 : a1 < k) (hk : k < m + 1)
    (hm : engineMoves (tr k) = true) : (tr k).ts ≠ .gtD1 := by
  obtain ⟨hts2, hts3, hts4⟩ := r.ts
  rcases lt_trichotomy k a2 with h2 | rfl | h2
  · exact fun hts => absurd (r.date.last k h2 hm hts) (by omega)
  · simp [hts2]
  · rcases r.last_three h2 hk hm with rfl | rfl | rfl
    · simp [hts3]
    · simp [hts4]
    · simp [hd2]

/-- The two reads of `TIME` agree, so under `NoABA` it held `ST` between them. -/
theorem FinalReads.time_held (hABA : NoABA tr n) (hm : m < n) {k : Nat} (h2 : a2 ≤ k) (h4 : k ≤ a4) :
    (tr k).counter.time = (tr m).st := by
  obtain ⟨-, read2, -, read4⟩ := r.readsNow
  have hagree : (tr a2).counter.time = (tr a4).counter.time := by rw [r.agrees, r.st]
  exact (hABA .time (.inl rfl) a2 k a4 h2 h4 (r.check.lt.trans hm) read2 read4 hagree).trans r.st.symm

/-- The two reads of `DATE` agree, so under `NoABA` it held `SD` between them, whatever retries of `TIME` came in. -/
theorem FinalReads.date_held (hABA : NoABA tr n) (hm : m < n) (read5 : ReadsNow .date (tr m))
    (hdate : (tr m).counter.date = (tr m).sd) {k : Nat} (h1 : a1 ≤ k) (h5 : k ≤ m) :
    (tr k).counter.date = (tr m).sd := by
  obtain ⟨read1, -⟩ := r.readsNow
  have hagree : (tr a1).counter.date = (tr m).counter.date := by rw [hdate, r.sd]
  exact (hABA .date (.inr rfl) a1 k m h1 h5 hm read1 read5 hagree).trans r.sd.symm

end

/-- Settles O55: the run ends in `GT_D2`, the five accesses are found back from there, and the snapshot they left is
the one answered. -/
theorem gettimeIsTornFree : Obligations.GettimeIsTornFree := by
  intro tr n payload hseq hbox hstart htr hbusy hend hresp hABA
  have hrun : GettimeRun tr n := gettimeRun_of_trace hseq hbox hstart htr hbusy
  obtain ⟨m, rfl⟩ : ∃ m, n = m + 1 :=
    Nat.exists_eq_succ_of_ne_zero fun hn => by simp [hn, hstart] at hend
  have hm : m < m + 1 := m.lt_succ_self
  have hs : GettimeInFlight (tr m) := hrun.inFlight m hm
  obtain ⟨hmoves, i, e, hnext⟩ := hrun.last_step hend
  obtain ⟨-, hsd, hst, hss⟩ := (hs.move hnext).to_idle hend
  obtain ⟨hcfg, -, -⟩ := (hrun.step hm).keeps
  obtain ⟨hd2, hdate, nsec, hpayload, hnsec⟩ := hs.ends_ok hnext hend ((hrun.owner_eq hm.le).symm ▸ hresp)
  obtain ⟨a1, a2, a3, a4, r⟩ := hrun.finalReads hm hd2
  obtain ⟨h12, h23, h34, h45⟩ := r.order
  obtain ⟨read1, read2, read3, read4⟩ := r.readsNow
  have read5 : ReadsNow .date (tr m) := readsNow_of_ts hmoves hd2 rfl
  rw [hsd, hst, hss, hcfg]
  refine ⟨a1, a2, a3, a4, m, h12, h23, h34, h45, hm, read1, read2, read3, read4, read5, r.date.ts,
    fun _ => r.no_later_gtD1 hd2, fun _ => r.last_three, fun _ => r.time_held hABA hm,
    fun _ => r.date_held hABA hm read5 hdate, r.ss.symm, nsec, ?_, hnsec⟩
  rw [r.date_held hABA hm read5 hdate (by omega) (by omega), r.time_held hABA hm h23.le h34.le]
  exact hpayload

end Sys2Proof.Machine
end

section
/-! PROOF. The statements of the calibration transactions (spec/44_calibration_transactions.md): the acceptance of
SETCAL, and its run when the pending flag never clears. -/

namespace Sys2Proof.Machine

/-! ### The issue step of SETCAL (44_calibration_transactions.md R204, R205; log entry 28) -/

/-- Settles O28: R133 bounds the pulse count; no argument error, accepted, and the latches are R205's. -/
theorem setcalAccepted : Obligations.SetcalAccepted := by
  intro s ppb hcal hmin hmax hconf hlock
  obtain ⟨hlo, hhi⟩ := ppbToPulses_mem hmin hmax
  refine ⟨hlo, hhi, ?_⟩
  rw [exec, execSetcal, hcal, ppbOutOfRange_eq_false hmin hmax, Bool.not_true, Bool.or_false,
    issueTransaction_of_configured (by decide) _ hconf hlock]
  rfl

/-! ### SETCAL with its pending flag standing (44_calibration_transactions.md R206, R209) -/

section
variable {s : State} {rest : List Event}

theorem advance_scPoll_waits (hts : s.ts = .scPoll) (hp : s.counter.calPending = true) (hn : 0 < s.tmo) :
    advance s = .next { s with
      hist := s.hist ++ [.rd .status s.counter.status], tmo := s.tmo - 1 } := by
  obtain ⟨-, -, hwait, -⟩ := calibrationStates s
  exact hwait hts hp hn

/-- The last read of the budget ends the command: SETCAL polls with protection still on, so there is no scope to
leave. -/
theorem advance_scPoll_times_out (hts : s.ts = .scPoll) (ho : s.opl = .setcal) (hp : s.counter.calPending = true)
    (hn : s.tmo = 0) : advance s = .next { s with
      hist := s.hist ++ [.rd .status s.counter.status], lock := false, ts := .idle
      resp := s.resp.set s.owner (some [0x40000003#32]) } := by
  obtain ⟨-, -, -, htimeout, -⟩ := calibrationStates s
  exact htimeout hts hp hn ho

/-- The polls under a flag that stays 1: one for each unit of the budget, and the last one, which gives up. -/
theorem runs_setcal_until_timeout {n : Nat} (hin : s.inputs = List.replicate (n + 1) .advance ++ rest)
    (hts : s.ts = .scPoll) (ho : s.opl = .setcal) (hp : s.counter.calPending = true) (hn : s.tmo = n) :
    runs (n + 1) s = .next { s with
      inputs := rest, hist := s.hist ++ List.replicate (n + 1) (.rd .status s.counter.status)
      tmo := 0, lock := false, ts := .idle, resp := s.resp.set s.owner (some [0x40000003#32]) } := by
  induction n generalizing s with
  | zero =>
    rw [runs_engine_then hin (advance_scPoll_times_out hts ho hp hn) (runs_zero _)]
    simp [hn]
  | succ n ih =>
    have hpos : 0 < s.tmo := hn ▸ n.succ_pos
    have hleft : s.tmo - 1 = n := by omega
    rw [runs_engine_then hin (advance_scPoll_waits hts hp hpos) (ih rfl hts ho hp hleft)]
    simp [← List.replicate_succ]

end

/-- Settles O59: the polls of the whole budget. -/
theorem setcalTimesOutWithinBudget : Obligations.SetcalTimesOutWithinBudget :=
  fun _ _ hin hts ho hp => runs_setcal_until_timeout hin hts ho hp rfl

end Sys2Proof.Machine
end

section
/-! PROOF. The statement of the configuration sequencer (spec/45_config_sequencer.md): the two states in which CONFIG
reads the counter's configuration and compares it with the target. -/

namespace Sys2Proof.Machine

/-! ### The comparison of CONFIG (45_config_sequencer.md R222, R223) -/

/-- The comparison in the fields of R42 and R43, the target format being the 24-hour one, 0. -/
theorem configMatches_iff (cfg : Config) (fmt : Bool) (presc : Word) : configMatches cfg fmt presc = true ↔
    fmt = false ∧ bits presc 14 0 = cfg.predivS ∧ bits presc 22 16 = cfg.predivA :=
  decide_eq_true_iff

theorem finish_ok_config {s : State} (ho : s.opl = .config) : finish .ok [] s = { s with
    lock := false, ts := .idle, resp := s.resp.set s.owner (some [0x50000000#32]) } := by
  simp only [finish, respond, setMailbox, ho]
  rfl

/-- Settles O43: the latch of the format bit, then the match, which ends the command with no write, and the
difference, which opens the write scope. -/
theorem configCompares : Obligations.ConfigCompares := by
  intro s
  refine ⟨advance_cfRctrl, fun hts ho => ?_⟩
  rw [advance_cfRpresc hts]
  cases hm : configMatches s.cfg s.cfFmt s.counter.presc with
  | true =>
    rw [if_pos ((configMatches_iff ..).mp hm), cfRpresc_matches s hm]
    exact congrArg _ (finish_ok_config (s := { logRead .presc s with configured := true }) ho)
  | false =>
    rw [if_neg (mt (configMatches_iff ..).mpr (Bool.eq_false_iff.mp hm)), cfRpresc_differs s hm]
    rfl

end Sys2Proof.Machine
end

section
/-! PROOF. The statement of the exceptions (spec/60_exceptions.md): a transaction has one way to end, and it answers. -/

namespace Sys2Proof.Machine

/-! ### The release of the lock (60_exceptions.md R247, R251) -/

section
variable {s t : State}

/-- The engine frees the lock in no other way than by answering the owner, who has a mailbox to be answered in. -/
theorem advance_answers_owner (hs : MailboxInv s) (hl : s.lock = true) (h : advance s = .next t)
    (hfree : t.lock = false) : ∃ w, t.mailbox s.owner = some w := by
  have hown : s.owner < s.resp.length := hs.ports ▸ hs.owner hl
  rcases (advance_effect h).answer with ⟨hlock, -⟩ | ⟨w, -, hresp⟩
  · simp [hlock, hl] at hfree
  · exact ⟨w, by simp [State.mailbox, hresp, hown]⟩

/-- An issue step takes the lock or leaves it: it never frees one that is held. -/
theorem issue_keeps_held_lock {r : Nat} {p : Packet} (hl : s.lock = true) (h : issue r p s = .next t) :
    t.lock = true := by
  rcases issue_cases h with ⟨w, ws, rfl⟩ | ⟨tr, d, m, c, n, k, -, rfl⟩
  · exact hl
  · rfl

end

/-- Settles O54: of the four agents only the engine frees a held lock. -/
theorem transactionEndAnswersOwner : Obligations.TransactionEndAnswersOwner := by
  intro s t hs hl h hfree
  have hheld : (useEvent s).lock = true := (useEvent_lock s).trans hl
  have not_held : t.lock ≠ true := by simp [hfree]
  rcases step_cases h with ⟨u, rfl | rfl, -, hadv⟩ | ⟨m, -, rfl⟩ | ⟨b, -, rfl⟩ | ⟨r, p, -, hissue⟩
  · exact advance_answers_owner hs hl hadv hfree
  · exact useEvent_owner s ▸ advance_answers_owner hs.useEvent hheld hadv hfree
  · exact absurd hheld not_held
  · exact absurd hheld not_held
  · exact absurd (issue_keeps_held_lock hheld hissue) not_held

end Sys2Proof.Machine
end
